-- ==== Sys2Proof/Word.lean ====
section
/-! DEFINITION. The word types of the codec core (00_scope.md R4, R5). -/

namespace Sys2Proof

/-- `BYTE_W = CHAR_W = 8`: a data byte or a character code (R4, R5). -/
abbrev Byte := BitVec 8

/-- `SEXTET_W = 6`: an alphabet index, 0 to 63 (R4). -/
abbrev Sextet := BitVec 6

/-- `GROUP_BITS = 24`: the group word, format `G24` (R4, R46). -/
abbrev GroupWord := BitVec 24

/-- The 32-bit view of an encoded group, format `C32` (R49). -/
abbrev CharWord := BitVec 32

/-- The command code, format `CMD` (R55). -/
abbrev OpCode := BitVec 1

end Sys2Proof
end

