-- ==== Sys2Proof/Config.lean ====
section
/-! DEFINITION. What an instance fixes (the capacities) and the values the spec leaves free. -/

namespace Sys2Proof

/-- The open parameters `CAP_IN` and `CAP_OUT` in elements, "which the model takes as arguments and
which default to unbounded" (00_scope.md R6); `none` is unbounded. `State` holds one, and no step
changes it (notes/assumptions/8.md). -/
structure Config where
  capIn : Option Nat
  capOut : Option Nat
  deriving DecidableEq, Repr

/-- The default of R6: both capacities unbounded. -/
def Config.unbounded : Config := { capIn := none, capOut := none }

/-- What the host reads from an element of `IN` it has not written since reset, "unspecified" (10_state.md
R25): one free byte for each reset and address. Nothing constrains it, and reading again delivers it again
(20_memory.md R35; DESIGN CHOICE, notes/assumptions/6.md). -/
opaque Config.freeIn : (resets a : Nat) → Byte

/-- What the host reads from an unspecified element of `OUT`, "any value" (R20, R26;
70_reset_and_hazards.md R176): one free byte for each reset, START, place of `OPTR` and address. Nothing
constrains it, and reading again, while nothing has moved these, delivers it again (R35; DESIGN CHOICE,
notes/assumptions/6.md). -/
opaque Config.freeOut : (resets starts optr a : Nat) → Byte

end Sys2Proof
end

