-- ==== Sys2Proof/Machine/Alphabet.lean ====
section
/-! DEFINITION. The alphabet table, the pad, the reverse table and the two lookups
(40_alphabet_table.md, 30_encoding.md R50 to R56). -/

namespace Sys2Proof.Machine

/-- `FWD[0]` to `FWD[25]` (30_encoding.md R50). -/
def fwdUpper : List Byte :=
  [0x41, 0x42, 0x43, 0x44, 0x45, 0x46, 0x47, 0x48, 0x49, 0x4A, 0x4B, 0x4C, 0x4D,
   0x4E, 0x4F, 0x50, 0x51, 0x52, 0x53, 0x54, 0x55, 0x56, 0x57, 0x58, 0x59, 0x5A]

/-- `FWD[26]` to `FWD[51]` (30_encoding.md R50). -/
def fwdLower : List Byte :=
  [0x61, 0x62, 0x63, 0x64, 0x65, 0x66, 0x67, 0x68, 0x69, 0x6A, 0x6B, 0x6C, 0x6D,
   0x6E, 0x6F, 0x70, 0x71, 0x72, 0x73, 0x74, 0x75, 0x76, 0x77, 0x78, 0x79, 0x7A]

/-- `FWD[52]` to `FWD[63]` (30_encoding.md R50). -/
def fwdRest : List Byte :=
  [0x30, 0x31, 0x32, 0x33, 0x34, 0x35, 0x36, 0x37, 0x38, 0x39, 0x2B, 0x2F]

/-- `FWD`, the forward table: 64 codes, a constant (10_state.md R11). The only authored table (R69). -/
def fwd : Vector Byte 64 := ⟨(fwdUpper ++ fwdLower ++ fwdRest).toArray, rfl⟩

/-- `FWD[i]`; `i` is a 6-bit value, so the read never fails (R11, R65). -/
def fwdAt (i : Sextet) : Byte := fwd[i.toNat]'i.isLt

/-- `PAD`, the code of '=' (10_state.md R12, 30_encoding.md R51). -/
def padCode : Byte := 0x3D

/-- One entry of `REV`, format `REVENT`: `VALID` and `IDX` (10_state.md R13, 30_encoding.md R56). -/
structure RevEnt where
  valid : Bool
  idx : Sextet
  deriving DecidableEq, Repr

/-- The 7-bit form of an entry: bit 6 `VALID`, bits 5:0 `IDX` (R56). -/
def revEntBits (e : RevEnt) : BitVec 7 := BitVec.ofBool e.valid ++ e.idx

/-- "no value": `(0, 0)` (R56, R67). -/
def revNone : RevEnt := { valid := false, idx := 0 }

/-- `REV`, 256 entries indexed by a character code (R13). -/
abbrev Rev := Vector RevEnt 256

/-- `REV[c]`. -/
def revAt (rev : Rev) (c : Byte) : RevEnt := rev[c.toNat]'c.isLt

/-- `REV[c] <- e` (00_scope.md section 4.3). -/
def revSet (rev : Rev) (c : Byte) (e : RevEnt) : Rev := rev.set c.toNat e c.isLt

/-- The first loop of BUILD_REV: every code starts as "no value" (R67). -/
def revCleared : Rev := Vector.replicate 256 revNone

/-- The second loop of BUILD_REV for the indices below `n`, ascending: `REV[FWD[i]] <- (1, i)` (R67). -/
def revFill : Nat → Rev
  | 0 => revCleared
  | n + 1 => revSet (revFill n) (fwdAt (BitVec.ofNat 6 n)) { valid := true, idx := BitVec.ofNat 6 n }

/-- BUILD_REV: both loops, from `FWD` alone (R67, R69). -/
def builtRev : Rev := revFill 64

/-- `SYMBOL_FOR(i) = FWD[i]` (R65). -/
def symbolOf (i : Sextet) : Byte := fwdAt i

/-- `INDEX_FOR(c)`: `some REV[c].IDX` if `VALID`, else `none` (R66). -/
def indexOf (rev : Rev) (c : Byte) : Option Sextet :=
  if (revAt rev c).valid then some (revAt rev c).idx else none

/-- `REV[c].IDX` as the group steps of the decoder read it (42_decoder.md section 3); 0 where `VALID`
is 0 (R13). -/
def sextetOf (rev : Rev) (c : Byte) : Sextet := (revAt rev c).idx

end Sys2Proof.Machine
end

