-- ==== Sys2Proof/Machine/Operands.lean ====
section
/-! DEFINITION. The operand formats: the group word `G24`, the encoded group `C32`, and the two scans of
a text that the checks make (30_encoding.md R46 to R49, 42_decoder.md R102, R103). -/

namespace Sys2Proof.Machine

/-- `w = b0 ++ b1 ++ b2` (R46, R47). -/
def groupOfBytes (b0 b1 b2 : Byte) : GroupWord := b0 ++ b1 ++ b2

/-- `w = v0 ++ v1 ++ v2 ++ v3` (R48). -/
def groupOfSextets (v0 v1 v2 v3 : Sextet) : GroupWord := v0 ++ v1 ++ v2 ++ v3

/-- `S0 = w[23:18]` (R46). -/
def sextet0 (w : GroupWord) : Sextet := w.extractLsb' 18 6
/-- `S1 = w[17:12]` (R46). -/
def sextet1 (w : GroupWord) : Sextet := w.extractLsb' 12 6
/-- `S2 = w[11:6]` (R46). -/
def sextet2 (w : GroupWord) : Sextet := w.extractLsb' 6 6
/-- `S3 = w[5:0]` (R46). -/
def sextet3 (w : GroupWord) : Sextet := w.extractLsb' 0 6

/-- `B0 = w[23:16]` (R46). -/
def byte0 (w : GroupWord) : Byte := w.extractLsb' 16 8
/-- `B1 = w[15:8]` (R46). -/
def byte1 (w : GroupWord) : Byte := w.extractLsb' 8 8
/-- `B2 = w[7:0]` (R46). -/
def byte2 (w : GroupWord) : Byte := w.extractLsb' 0 8

/-- The 32-bit view `c0 ++ c1 ++ c2 ++ c3` of an encoded group (R49). -/
def wordOfChars (c0 c1 c2 c3 : Byte) : CharWord := c0 ++ c1 ++ c2 ++ c3

/-- `c0`, bits 31:24 (R49). -/
def char0 (w : CharWord) : Byte := w.extractLsb' 24 8
/-- `c1`, bits 23:16 (R49). -/
def char1 (w : CharWord) : Byte := w.extractLsb' 16 8
/-- `c2`, bits 15:8 (R49). -/
def char2 (w : CharWord) : Byte := w.extractLsb' 8 8
/-- `c3`, bits 7:0 (R49). -/
def char3 (w : CharWord) : Byte := w.extractLsb' 0 8

/-- The group word of one, two or three bytes, the absent ones 0 (R81, R82, R83). -/
def groupOfRun : List Byte → GroupWord
  | b0 :: b1 :: b2 :: _ => groupOfBytes b0 b1 b2
  | [b0, b1] => groupOfBytes b0 b1 0
  | [b0] => groupOfBytes b0 0 0
  | [] => 0

/-- The 32-bit view of the four codes read from `IN` (R49). -/
def charsOfRun : List Byte → CharWord
  | c0 :: c1 :: c2 :: c3 :: _ => wordOfChars c0 c1 c2 c3
  | _ => 0

/-- The least index `>= i` of `cs` (whose first element has index `i`) at which `bad` holds. -/
def firstBad (bad : Nat → Byte → Bool) : Nat → List Byte → Option Nat
  | _, [] => none
  | i, c :: cs => if bad i c then some i else firstBad bad (i + 1) cs

/-- `padOK(T, i)`: `i = n-1`, or `i = n-2` and `T[n-1] = PAD` (42_decoder.md R100). -/
def padAllowed (text : List Byte) (i : Nat) : Bool :=
  decide (i + 1 = text.length) ||
    (decide (i + 2 = text.length) && decide (text[text.length - 1]? = some padCode))

/-- The least index of a misplaced pad (R102, R147, R151). -/
def firstBadPad (text : List Byte) : Option Nat :=
  firstBad (fun i c => decide (c = padCode) && !padAllowed text i) 0 text

/-- The least index of a character that is neither the pad nor a symbol (R103, R148, R151). -/
def firstBadChar (rev : Rev) (text : List Byte) : Option Nat :=
  firstBad (fun _ c => decide (c ≠ padCode) && (indexOf rev c).isNone) 0 text

/-- `NPAD` as CHKPAD computes it from the last two characters (R102). -/
def trailingPads (text : List Byte) : Nat :=
  match text.reverse with
  | [] => 0
  | c :: rest =>
    if c ≠ padCode then 0
    else if rest.head? = some padCode then 2 else 1

end Sys2Proof.Machine
end

