-- ==== Sys2Proof/Syntax.lean ====
section
/-! DEFINITION. The instructions: one constructor for each of the 82 rows of spec/opcode_table.json
(30_encoding.md R45, R60: 17 operations and steps, 64 symbol codes, the pad code). -/

namespace Sys2Proof

inductive Instr where
  /-- `START`. Host command: begin the operation `OP` selects (43_host_commands.md R130). -/
  | start
  /-- `ENCODE`. The whole ENCODE operation (41_encoder.md R80). -/
  | encode
  /-- `DECODE`. The whole DECODE operation (42_decoder.md R100). -/
  | decode
  /-- `ENC3`. Encode a full group of three bytes (R81). -/
  | enc3 (b0 b1 b2 : Byte)
  /-- `ENC2`. Encode the remainder group of two bytes (R82). -/
  | enc2 (b0 b1 : Byte)
  /-- `ENC1`. Encode the remainder group of one byte (R83). -/
  | enc1 (b0 : Byte)
  /-- `ENC_FIN`. End of an ENCODE (R84). -/
  | encFin
  /-- `CHKLEN`. Check 1, the length (R101). -/
  | chkLen
  /-- `CHKPAD`. Check 2, the placement of pads (R102). -/
  | chkPad
  /-- `CHKCHR`. Check 3, every non-pad character is a symbol (R103). -/
  | chkChr
  /-- `DEC4`. Decode a group without pad (R104). -/
  | dec4 (c0 c1 c2 c3 : Byte)
  /-- `DEC3`. Decode the last group when it has one pad (R105). -/
  | dec3 (c0 c1 c2 : Byte)
  /-- `DEC2`. Decode the last group when it has two pads (R106). -/
  | dec2 (c0 c1 : Byte)
  /-- `DEC_FIN`. End of a successful DECODE (R107). -/
  | decFin
  /-- `SYMBOL_FOR`. Forward table read (40_alphabet_table.md R65). -/
  | symbolFor (i : Sextet)
  /-- `INDEX_FOR`. Reverse table read (R66). -/
  | indexFor (c : Byte)
  /-- `BUILD_REV`. Construction of the reverse table, run by reset (R67). -/
  | buildRev
  -- `SYMBOL_00_A` to `SYMBOL_07_H`: the symbol codes of the indices 0 to 7 (30_encoding.md R50).
  | symbol00A | symbol01B | symbol02C | symbol03D | symbol04E | symbol05F | symbol06G | symbol07H
  -- `SYMBOL_08_I` to `SYMBOL_15_P`: the symbol codes of the indices 8 to 15 (30_encoding.md R50).
  | symbol08I | symbol09J | symbol10K | symbol11L | symbol12M | symbol13N | symbol14O | symbol15P
  -- `SYMBOL_16_Q` to `SYMBOL_23_X`: the symbol codes of the indices 16 to 23 (30_encoding.md R50).
  | symbol16Q | symbol17R | symbol18S | symbol19T | symbol20U | symbol21V | symbol22W | symbol23X
  -- `SYMBOL_24_Y` to `SYMBOL_31_f`: the symbol codes of the indices 24 to 31 (30_encoding.md R50).
  | symbol24Y | symbol25Z | symbol26a | symbol27b | symbol28c | symbol29d | symbol30e | symbol31f
  -- `SYMBOL_32_g` to `SYMBOL_39_n`: the symbol codes of the indices 32 to 39 (30_encoding.md R50).
  | symbol32g | symbol33h | symbol34i | symbol35j | symbol36k | symbol37l | symbol38m | symbol39n
  -- `SYMBOL_40_o` to `SYMBOL_47_v`: the symbol codes of the indices 40 to 47 (30_encoding.md R50).
  | symbol40o | symbol41p | symbol42q | symbol43r | symbol44s | symbol45t | symbol46u | symbol47v
  -- `SYMBOL_48_w` to `SYMBOL_55_3`: the symbol codes of the indices 48 to 55 (30_encoding.md R50).
  | symbol48w | symbol49x | symbol50y | symbol51z | symbol520 | symbol531 | symbol542 | symbol553
  -- `SYMBOL_56_4` to `SYMBOL_63_SLASH`: the symbol codes of the indices 56 to 63 (30_encoding.md R50).
  | symbol564 | symbol575 | symbol586 | symbol597 | symbol608 | symbol619 | symbol62Plus | symbol63Slash
  /-- `PAD`. The pad code (30_encoding.md R51). -/
  | pad
  deriving DecidableEq, Repr

end Sys2Proof
end

