-- ==== Sys2Proof/WellFormed.lean ====
section
/-! DEFINITION. Which instructions the opcode table admits. -/

namespace Sys2Proof

open Machine

/-- What the selecting patterns of the table ask of the operands: DEC4's group does not end in a pad
(42_decoder.md R104), DEC3's third character is not a pad, since "if c2 = 0x3D the DEC2 pattern takes
precedence" (R105, opcode_table.json). Every other operand may have any value of its width. -/
def Instr.wf : Instr → Bool
  | .dec4 _ _ _ c3 => decide (c3 ≠ padCode)
  | .dec3 _ _ c2 => decide (c2 ≠ padCode)
  | _ => true

/-- "a symbol": the code has an alphabet index (30_encoding.md R50, R54). -/
def isSymbol (c : Byte) : Bool := (indexOf builtRev c).isSome

/-- What CHKPAD and CHKCHR establish before a group step is reached: every character a group step looks
up is a symbol (42_decoder.md section 3). The step does not test it again, so it is no part of `wf`;
see notes/assumptions/13.md. -/
def Instr.onSymbols : Instr → Bool
  | .dec4 c0 c1 c2 c3 => isSymbol c0 && isSymbol c1 && isSymbol c2 && isSymbol c3
  | .dec3 c0 c1 c2 => isSymbol c0 && isSymbol c1 && isSymbol c2
  | .dec2 c0 c1 => isSymbol c0 && isSymbol c1
  | _ => true

end Sys2Proof
end

