-- ==== Sys2Proof/Decode.lean ====
section
/-! DEFINITION. From an operand word to an instruction and back (30_encoding.md R45, R60). The block has
no instruction words: a packet is what selects a row of the opcode table, namely the row's format and
the bits the table gives it. -/

namespace Sys2Proof

open Machine

/-- The rows without an operand word that the sequencer selects by state (format STEP, R60). -/
inductive StepRow where
  | encFin | chkLen | chkPad | chkChr | decFin
  deriving DecidableEq, Repr

/-- One operand word, with its format (R45 and the format column of opcode_table.json). -/
inductive Packet where
  /-- Format HOSTCMD: the `start` pulse (R130). -/
  | hostcmd
  /-- Format CMD: the command code, `OP` (R55). -/
  | cmd (w : OpCode)
  /-- Format RESET (R67, R171). -/
  | reset
  /-- Format STEP. -/
  | step (r : StepRow)
  /-- Format G24: a group of `n` bytes, as its group word (R46, R81 to R83). -/
  | g24 (n : Nat) (w : GroupWord)
  /-- Format C32: an encoded group (R49). -/
  | c32 (w : CharWord)
  /-- Format TABLE: an index into `FWD` (R65). -/
  | index (i : Sextet)
  /-- Format TABLE: a code, as an index into `REV` (R66). -/
  | code (c : Byte)
  /-- Format SYM: one character code (R50, R51, R54). -/
  | sym (c : Byte)
  deriving DecidableEq, Repr

/-- Why a packet is no row of the table. -/
inductive DecodeReject where
  /-- One of the 191 illegal character codes (R54). -/
  | illegalCode (c : Byte)
  /-- A group of no or of more than three bytes (R4 `GROUP_BYTES`). -/
  | badGroupSize (n : Nat)
  /-- The byte positions a remainder group does not have are 0 in its word (R82, R83). -/
  | absentByteNotZero
  deriving DecidableEq, Repr

/-- The symbol rows of the indices 0 to 25, in index order (R50). -/
def symbolsUpper : List Instr :=
  [.symbol00A, .symbol01B, .symbol02C, .symbol03D, .symbol04E, .symbol05F,
   .symbol06G, .symbol07H, .symbol08I, .symbol09J, .symbol10K, .symbol11L,
   .symbol12M, .symbol13N, .symbol14O, .symbol15P, .symbol16Q, .symbol17R,
   .symbol18S, .symbol19T, .symbol20U, .symbol21V, .symbol22W, .symbol23X,
   .symbol24Y, .symbol25Z]

/-- The symbol rows of the indices 26 to 51, in index order (R50). -/
def symbolsLower : List Instr :=
  [.symbol26a, .symbol27b, .symbol28c, .symbol29d, .symbol30e, .symbol31f,
   .symbol32g, .symbol33h, .symbol34i, .symbol35j, .symbol36k, .symbol37l,
   .symbol38m, .symbol39n, .symbol40o, .symbol41p, .symbol42q, .symbol43r,
   .symbol44s, .symbol45t, .symbol46u, .symbol47v, .symbol48w, .symbol49x,
   .symbol50y, .symbol51z]

/-- The symbol rows of the indices 52 to 63, in index order (R50). -/
def symbolsRest : List Instr :=
  [.symbol520, .symbol531, .symbol542, .symbol553, .symbol564, .symbol575,
   .symbol586, .symbol597, .symbol608, .symbol619, .symbol62Plus, .symbol63Slash]

/-- Every `SYM` row with its code, the codes taken from `FWD` (R50, R51, R69). -/
def symRows : List (Byte × Instr) :=
  fwd.toList.zip (symbolsUpper ++ symbolsLower ++ symbolsRest) ++ [(padCode, .pad)]

/-- The row of a code in a list of rows. -/
def rowOfCode (c : Byte) : List (Byte × Instr) → Option Instr
  | [] => none
  | (d, i) :: rows => if d = c then some i else rowOfCode c rows

/-- Format SYM: a symbol, the pad, or an illegal code (R50, R51, R54). -/
def decodeSym (c : Byte) : Except DecodeReject Instr :=
  match rowOfCode c symRows with
  | some i => .ok i
  | none => .error (.illegalCode c)

/-- Format G24: the row is chosen by how many bytes are left (R60, R81, R82, R83). -/
def decodeGroup (n : Nat) (w : GroupWord) : Except DecodeReject Instr :=
  match n with
  | 3 => .ok (.enc3 (byte0 w) (byte1 w) (byte2 w))
  | 2 => if byte2 w = 0 then .ok (.enc2 (byte0 w) (byte1 w)) else .error .absentByteNotZero
  | 1 => if byte1 w = 0 ∧ byte2 w = 0 then .ok (.enc1 (byte0 w)) else .error .absentByteNotZero
  | _ => .error (.badGroupSize n)

/-- Format C32: the shape decides, as the selection of R104, R105, R106 has it. -/
def decodeChars (w : CharWord) : Instr :=
  if char3 w ≠ padCode then .dec4 (char0 w) (char1 w) (char2 w) (char3 w)
  else if char2 w ≠ padCode then .dec3 (char0 w) (char1 w) (char2 w)
  else .dec2 (char0 w) (char1 w)

/-- The decoder: total on every packet, a rejection has a name. -/
def decode : Packet → Except DecodeReject Instr
  | .hostcmd => .ok .start
  | .cmd w => .ok (if w = 0 then .encode else .decode)
  | .reset => .ok .buildRev
  | .step .encFin => .ok .encFin
  | .step .chkLen => .ok .chkLen
  | .step .chkPad => .ok .chkPad
  | .step .chkChr => .ok .chkChr
  | .step .decFin => .ok .decFin
  | .g24 n w => decodeGroup n w
  | .c32 w => .ok (decodeChars w)
  | .index i => .ok (.symbolFor i)
  | .code c => .ok (.indexFor c)
  | .sym c => decodeSym c

/-- The word of an instruction, from the same tables (opcode_table.json; R46 to R51, R55). -/
def encode : Instr → Packet
  | .start => .hostcmd
  | .encode => .cmd 0
  | .decode => .cmd 1
  | .enc3 b0 b1 b2 => .g24 3 (groupOfBytes b0 b1 b2)
  | .enc2 b0 b1 => .g24 2 (groupOfBytes b0 b1 0)
  | .enc1 b0 => .g24 1 (groupOfBytes b0 0 0)
  | .encFin => .step .encFin
  | .chkLen => .step .chkLen
  | .chkPad => .step .chkPad
  | .chkChr => .step .chkChr
  | .dec4 c0 c1 c2 c3 => .c32 (wordOfChars c0 c1 c2 c3)
  | .dec3 c0 c1 c2 => .c32 (wordOfChars c0 c1 c2 padCode)
  | .dec2 c0 c1 => .c32 (wordOfChars c0 c1 padCode padCode)
  | .decFin => .step .decFin
  | .symbolFor i => .index i
  | .indexFor c => .code c
  | .buildRev => .reset
  | .symbol00A => .sym (fwdAt 0)
  | .symbol01B => .sym (fwdAt 1)
  | .symbol02C => .sym (fwdAt 2)
  | .symbol03D => .sym (fwdAt 3)
  | .symbol04E => .sym (fwdAt 4)
  | .symbol05F => .sym (fwdAt 5)
  | .symbol06G => .sym (fwdAt 6)
  | .symbol07H => .sym (fwdAt 7)
  | .symbol08I => .sym (fwdAt 8)
  | .symbol09J => .sym (fwdAt 9)
  | .symbol10K => .sym (fwdAt 10)
  | .symbol11L => .sym (fwdAt 11)
  | .symbol12M => .sym (fwdAt 12)
  | .symbol13N => .sym (fwdAt 13)
  | .symbol14O => .sym (fwdAt 14)
  | .symbol15P => .sym (fwdAt 15)
  | .symbol16Q => .sym (fwdAt 16)
  | .symbol17R => .sym (fwdAt 17)
  | .symbol18S => .sym (fwdAt 18)
  | .symbol19T => .sym (fwdAt 19)
  | .symbol20U => .sym (fwdAt 20)
  | .symbol21V => .sym (fwdAt 21)
  | .symbol22W => .sym (fwdAt 22)
  | .symbol23X => .sym (fwdAt 23)
  | .symbol24Y => .sym (fwdAt 24)
  | .symbol25Z => .sym (fwdAt 25)
  | .symbol26a => .sym (fwdAt 26)
  | .symbol27b => .sym (fwdAt 27)
  | .symbol28c => .sym (fwdAt 28)
  | .symbol29d => .sym (fwdAt 29)
  | .symbol30e => .sym (fwdAt 30)
  | .symbol31f => .sym (fwdAt 31)
  | .symbol32g => .sym (fwdAt 32)
  | .symbol33h => .sym (fwdAt 33)
  | .symbol34i => .sym (fwdAt 34)
  | .symbol35j => .sym (fwdAt 35)
  | .symbol36k => .sym (fwdAt 36)
  | .symbol37l => .sym (fwdAt 37)
  | .symbol38m => .sym (fwdAt 38)
  | .symbol39n => .sym (fwdAt 39)
  | .symbol40o => .sym (fwdAt 40)
  | .symbol41p => .sym (fwdAt 41)
  | .symbol42q => .sym (fwdAt 42)
  | .symbol43r => .sym (fwdAt 43)
  | .symbol44s => .sym (fwdAt 44)
  | .symbol45t => .sym (fwdAt 45)
  | .symbol46u => .sym (fwdAt 46)
  | .symbol47v => .sym (fwdAt 47)
  | .symbol48w => .sym (fwdAt 48)
  | .symbol49x => .sym (fwdAt 49)
  | .symbol50y => .sym (fwdAt 50)
  | .symbol51z => .sym (fwdAt 51)
  | .symbol520 => .sym (fwdAt 52)
  | .symbol531 => .sym (fwdAt 53)
  | .symbol542 => .sym (fwdAt 54)
  | .symbol553 => .sym (fwdAt 55)
  | .symbol564 => .sym (fwdAt 56)
  | .symbol575 => .sym (fwdAt 57)
  | .symbol586 => .sym (fwdAt 58)
  | .symbol597 => .sym (fwdAt 59)
  | .symbol608 => .sym (fwdAt 60)
  | .symbol619 => .sym (fwdAt 61)
  | .symbol62Plus => .sym (fwdAt 62)
  | .symbol63Slash => .sym (fwdAt 63)
  | .pad => .sym padCode

/-- The alphabet index of a symbol row (R50); no other instruction has one. -/
def symbolIndex : Instr → Option Sextet
  | .symbol00A => some 0
  | .symbol01B => some 1
  | .symbol02C => some 2
  | .symbol03D => some 3
  | .symbol04E => some 4
  | .symbol05F => some 5
  | .symbol06G => some 6
  | .symbol07H => some 7
  | .symbol08I => some 8
  | .symbol09J => some 9
  | .symbol10K => some 10
  | .symbol11L => some 11
  | .symbol12M => some 12
  | .symbol13N => some 13
  | .symbol14O => some 14
  | .symbol15P => some 15
  | .symbol16Q => some 16
  | .symbol17R => some 17
  | .symbol18S => some 18
  | .symbol19T => some 19
  | .symbol20U => some 20
  | .symbol21V => some 21
  | .symbol22W => some 22
  | .symbol23X => some 23
  | .symbol24Y => some 24
  | .symbol25Z => some 25
  | .symbol26a => some 26
  | .symbol27b => some 27
  | .symbol28c => some 28
  | .symbol29d => some 29
  | .symbol30e => some 30
  | .symbol31f => some 31
  | .symbol32g => some 32
  | .symbol33h => some 33
  | .symbol34i => some 34
  | .symbol35j => some 35
  | .symbol36k => some 36
  | .symbol37l => some 37
  | .symbol38m => some 38
  | .symbol39n => some 39
  | .symbol40o => some 40
  | .symbol41p => some 41
  | .symbol42q => some 42
  | .symbol43r => some 43
  | .symbol44s => some 44
  | .symbol45t => some 45
  | .symbol46u => some 46
  | .symbol47v => some 47
  | .symbol48w => some 48
  | .symbol49x => some 49
  | .symbol50y => some 50
  | .symbol51z => some 51
  | .symbol520 => some 52
  | .symbol531 => some 53
  | .symbol542 => some 54
  | .symbol553 => some 55
  | .symbol564 => some 56
  | .symbol575 => some 57
  | .symbol586 => some 58
  | .symbol597 => some 59
  | .symbol608 => some 60
  | .symbol619 => some 61
  | .symbol62Plus => some 62
  | .symbol63Slash => some 63
  | .start => none
  | .encode => none
  | .decode => none
  | .enc3 _ _ _ => none
  | .enc2 _ _ => none
  | .enc1 _ => none
  | .encFin => none
  | .chkLen => none
  | .chkPad => none
  | .chkChr => none
  | .dec4 _ _ _ _ => none
  | .dec3 _ _ _ => none
  | .dec2 _ _ => none
  | .decFin => none
  | .symbolFor _ => none
  | .indexFor _ => none
  | .buildRev => none
  | .pad => none

/-- How many bytes a 24-bit table word holds when the word alone is given: the pattern with the most
fixed bits that matches, so trailing zero bytes are absent ones (notes/assumptions/11.md). The sequencer
never uses this: it knows the count from `IN_LEN - IPTR`. -/
def tableGroupSize (w : GroupWord) : Nat :=
  if byte2 w ≠ 0 then 3 else if byte1 w ≠ 0 then 2 else 1

/-- The packet of an 8-bit table word: the pattern with the most fixed bits that matches, the shorter
rows in a whole byte with zeros above: a `SYM` row, a command code, an index, else the operand of
INDEX_FOR (notes/assumptions/11.md). -/
def tableByte (c : Byte) : Packet :=
  match decodeSym c with
  | .ok _ => .sym c
  | .error _ =>
    if c.toNat < 2 then .cmd (c.setWidth 1)
    else if c.toNat < 64 then .index (c.setWidth 6)
    else .code c

/-- The packet of a table row's bits (bit 0 the least significant, as the table numbers them), by the
row's width: 1 CMD, 6 an index, 8 a byte, 24 G24, 32 C32 (notes/assumptions/11.md). -/
def tablePacket (nbits w : Nat) : Option Packet :=
  if 2 ^ nbits ≤ w then none
  else match nbits with
  | 1 => some (.cmd (BitVec.ofNat 1 w))
  | 6 => some (.index (BitVec.ofNat 6 w))
  | 8 => some (tableByte (BitVec.ofNat 8 w))
  | 24 => some (.g24 (tableGroupSize (BitVec.ofNat 24 w)) (BitVec.ofNat 24 w))
  | 32 => some (.c32 (BitVec.ofNat 32 w))
  | _ => none

/-- The instruction the decoder reads from a table row's bits. -/
def decodeTableWord (nbits w : Nat) : Option Instr :=
  match tablePacket nbits w with
  | some p => match decode p with
    | .ok i => some i
    | .error _ => none
  | none => none

end Sys2Proof
end

