-- ==== Sys2Proof/Machine/State.lean ====
section
/-! DEFINITION. The state of the block (10_state.md R10), what the host may do to it, the reasons a step
can stop, and the state after reset. -/

namespace Sys2Proof.Machine

/-- `STATUS.ST` (R17); the code 3 is never produced. -/
inductive St where
  | idle | busy | done
  deriving DecidableEq, Repr

/-- `STATUS.ERR` (R17, 60_exceptions.md R145). -/
inductive Err where
  | none | invalidLength | invalidPadding | invalidCharacter
  deriving DecidableEq, Repr

/-- `PHASE` (R21). -/
inductive Phase where
  | pEnc | pChkLen | pChkPad | pChkChr | pDec
  deriving DecidableEq, Repr

/-- One of the two buffers (20_memory.md R30): the elements that hold a value, by address, strictly
rising; an element that is not listed holds no value (notes/assumptions/4.md). -/
abbrev Memory := List Host.Cell

/-- The two address spaces (R30). -/
inductive Space where
  | inSpace | outSpace
  deriving DecidableEq, Repr

/-- One action on the block from outside its sequencer. -/
inductive Event where
  /-- `rst` is asserted (70_reset_and_hazards.md R170). -/
  | reset
  /-- The host pulses START (43_host_commands.md R130). -/
  | start
  /-- The host starts an operation and waits for its end, as one step (R90, R114;
  notes/assumptions/2.md). -/
  | call
  /-- The host waits until `ST = DONE` (30_encoding.md R61, WAIT DONE). -/
  | waitDone
  /-- The host does nothing for one step. -/
  | silent
  /-- Host writes (R14, R15, R19). -/
  | writeOp (v : OpCode)
  | writeInLen (n : Nat)
  | writeIn (a : Nat) (v : Byte)
  /-- Host reads (10_state.md R26, 43_host_commands.md R131). -/
  | readOp
  | readInLen
  | readIn (a : Nat)
  | readStatus
  | readErrPos
  | readOutLen
  | readOut (a : Nat)
  | readDone
  /-- The model's own: one table access by itself (notes/assumptions/3.md). -/
  | symbolFor (i : Sextet)
  | indexFor (c : Byte)
  | character (c : Byte)
  deriving DecidableEq, Repr

/-- What a host read delivers. -/
inductive HostValue where
  | bit (b : Bool)
  | word (w : Byte)
  | number (n : Nat)
  deriving DecidableEq, Repr

/-- What a table access delivers: a code and the index it stands for. -/
structure Mapping where
  code : Byte
  index : Option Sextet
  deriving DecidableEq, Repr

/-- Why the machine stops. -/
inductive Fault where
  /-- The sequencer read `IN[a]`, which the host has never written (20_memory.md R44). Raised by the
  fetch of a group and by CHKPAD and CHKCHR. Safe. -/
  | unwrittenRead (a : Nat)
  /-- An access at or above the capacity of a buffer: no such element (R19, R20, R30). Raised by the
  group steps and by host accesses. Safe. -/
  | noSuchAddress (space : Space) (a : Nat)
  /-- `ST = BUSY` with `IPTR > IN_LEN`: no row of R132 is enabled. Raised by the sequencer; no run
  reaches it. Safe. -/
  | noStepSelected
  deriving DecidableEq, Repr

/-- Why the model gives a request no meaning. -/
inductive Refusal where
  /-- An instruction without a meaning in this model. Raised by no arm. Safe. -/
  | notModelled (mnemonic : String)
  /-- START of an operation that reads an element of `IN` the host has not written (20_memory.md R44,
  93_implementation_defined.md S2). Raised by START, ENCODE, DECODE. Safe. -/
  | unwrittenInput
  /-- START with `IN_LEN > CAP_IN`, or whose result needs more than `CAP_OUT` elements (00_scope.md R6,
  60_exceptions.md R159). Raised by START, ENCODE, DECODE. Safe. -/
  | overCapacity
  /-- The host writes `OP`, `IN_LEN` or `IN` while `ST = BUSY` (70_reset_and_hazards.md R174). Raised by
  the host writes. Safe. -/
  | hostWriteWhileBusy
  /-- The packet is no row of the opcode table (30_encoding.md R54). Raised by the step. Safe. -/
  | undecodable (r : DecodeReject)
  deriving DecidableEq, Repr

/-- The whole state: the spec's (R10), the instance's capacities (R6), and the model's own fields. -/
structure State where
  /-- `REV` (R13). -/
  rev : Rev
  /-- `OP` (R14). -/
  op : OpCode
  /-- `IN_LEN` (R15). -/
  inLen : Nat
  /-- `OUT_LEN` (R16). -/
  outLen : Nat
  /-- `STATUS.ST` (R17). -/
  st : St
  /-- `STATUS.ERR` (R17). -/
  err : Err
  /-- `ERR_POS` (R18). -/
  errPos : Nat
  /-- `IN` (R19). -/
  inBuf : Memory
  /-- `OUT` (R20). -/
  outBuf : Memory
  /-- `PHASE` (R21). -/
  phase : Phase
  /-- `IPTR` (R21). -/
  iptr : Nat
  /-- `OPTR` (R21). -/
  optr : Nat
  /-- `ACC` (R21). -/
  acc : GroupWord
  /-- `V0` (R21). -/
  v0 : Sextet
  /-- `V1` (R21). -/
  v1 : Sextet
  /-- `V2` (R21). -/
  v2 : Sextet
  /-- `V3` (R21). -/
  v3 : Sextet
  /-- `NPAD` (R21). -/
  npad : BitVec 2
  /-- `CAP_IN`, `CAP_OUT` of this instance (R6); no step changes it. -/
  cfg : Config
  /-- The model's own: the events still to come, the next one first (notes/assumptions/1.md). -/
  pending : List Event
  /-- The model's own: what the host's last read delivered (notes/assumptions/18.md). -/
  readData : Option HostValue
  /-- The model's own: what the last table access run by itself delivered (notes/assumptions/3.md). -/
  mapped : Option Mapping
  /-- The model's own: how many times the block has been reset; the free bytes of `IN` and `OUT` change
  with it (notes/assumptions/6.md). -/
  resets : Nat
  /-- The model's own: how many operations have been started; the free bytes of `OUT` change with it
  (notes/assumptions/6.md). -/
  starts : Nat
  deriving DecidableEq, Repr

/-- The state after reset (R25, R170). `PHASE` has no reset value in the spec (DESIGN CHOICE `P_ENC`,
notes/assumptions/7.md); the model's own fields are empty (DESIGN CHOICE, notes/assumptions/6.md and
18.md). -/
def State.reset : State where
  rev := builtRev
  op := 0
  inLen := 0
  outLen := 0
  st := .idle
  err := .none
  errPos := 0
  inBuf := []
  outBuf := []
  phase := .pEnc
  iptr := 0
  optr := 0
  acc := 0
  v0 := 0
  v1 := 0
  v2 := 0
  v3 := 0
  npad := 0
  cfg := Config.unbounded
  pending := []
  readData := none
  mapped := none
  resets := 0
  starts := 0

end Sys2Proof.Machine
end

