-- ==== Sys2Proof/Machine/Flags.lean ====
section
/-! DEFINITION. The status word and the `done` level (10_state.md R17, 43_host_commands.md R131). There are
no other flags (R23). -/

namespace Sys2Proof.Machine

/-- The code of `ST`, bits 1:0 of `STATUS` (R17). -/
def stCode : St → BitVec 2
  | .idle => 0
  | .busy => 1
  | .done => 2

/-- The code of `ERR`, bits 3:2 of `STATUS` (R17, R145). -/
def errCode : Err → BitVec 2
  | .none => 0
  | .invalidLength => 1
  | .invalidPadding => 2
  | .invalidCharacter => 3

/-- `STATUS` read as an 8-bit word: bits 7:4 read as 0 (R17). -/
def State.statusWord (s : State) : Byte := (0 : BitVec 4) ++ errCode s.err ++ stCode s.st

/-- The level output `done`: 1 exactly when `ST = DONE` (R131, R155). -/
def State.doneLevel (s : State) : Bool := decide (s.st = .done)

end Sys2Proof.Machine
end

