-- ==== Sys2Proof/Machine/Ops.lean ====
section
/-! DEFINITION. The named operations over the buffers and the registers. -/

namespace Sys2Proof.Machine

/-! ## Buffers (20_memory.md) -/

/-- The element at address `a`; `none` if nothing has been written there. -/
def Memory.read : Memory → Nat → Option Byte
  | [], _ => none
  | (b, v) :: m, a => if b = a then some v else Memory.read m a

/-- `MEM[a] <- v`, one element, the only access width (R35). -/
def Memory.write : Memory → Nat → Byte → Memory
  | [], a, v => [(a, v)]
  | (b, w) :: m, a, v =>
    if a < b then (a, v) :: (b, w) :: m
    else if a = b then (a, v) :: m
    else (b, w) :: Memory.write m a v

/-- `MemWrite(OUT, a, n, [v0..])`: ascending from `a` (00_scope.md section 4.3). -/
def Memory.writeSeq : Memory → Nat → List Byte → Memory
  | m, _, [] => m
  | m, a, v :: vs => Memory.writeSeq (Memory.write m a v) (a + 1) vs

/-- `[MEM[a], ..., MEM[a+n-1]]` if all are written (R31). -/
def Memory.readSeq (m : Memory) : Nat → Nat → Option (List Byte)
  | _, 0 => some []
  | a, n + 1 =>
    match Memory.read m a, Memory.readSeq m (a + 1) n with
    | some v, some vs => some (v :: vs)
    | _, _ => none

/-- The canonical form: addresses strictly rising. An unlisted address holds no value, so no entry can
equal what an unlisted address reads as. -/
def Memory.wf : Memory → Bool
  | [] => true
  | [_] => true
  | (a, _) :: (b, w) :: m => decide (a < b) && Memory.wf ((b, w) :: m)

/-- `n` elements fit in a buffer of capacity `cap`; `none` is unbounded (00_scope.md R6). -/
def fits (cap : Option Nat) (n : Nat) : Bool :=
  match cap with
  | none => true
  | some c => decide (n ≤ c)

/-- The sequencer's read of one element of `IN` (R30, R36, R44). -/
def State.readIn (s : State) (a : Nat) : Except Fault Byte :=
  if fits s.cfg.capIn (a + 1) then
    match Memory.read s.inBuf a with
    | some v => .ok v
    | none => .error (.unwrittenRead a)
  else .error (.noSuchAddress .inSpace a)

/-- `MemRead(IN, a, n)`: ascending, one element at a time (00_scope.md section 4.3, R33). -/
def State.readInSeq (s : State) : Nat → Nat → Except Fault (List Byte)
  | _, 0 => .ok []
  | a, n + 1 =>
    match s.readIn a with
    | .error f => .error f
    | .ok v =>
      match s.readInSeq (a + 1) n with
      | .error f => .error f
      | .ok vs => .ok (v :: vs)

/-- The operand of CHKPAD and CHKCHR: all of `IN[0..IN_LEN-1]` (R36, R102, R103). -/
def State.readText (s : State) : Except Fault (List Byte) := s.readInSeq 0 s.inLen

/-- The input sequence of an operation, if the host has written all of it (20_memory.md R31, R44). -/
def State.inputSeq (s : State) : Option (List Byte) := Memory.readSeq s.inBuf 0 s.inLen

/-- The output sequence `[OUT[0], ..., OUT[OUT_LEN-1]]` (R31). -/
def State.outputSeq (s : State) : Option (List Byte) := Memory.readSeq s.outBuf 0 s.outLen

/-! ## The registers of an operation -/

/-- START's one transition (43_host_commands.md R130): the result of the last operation is cleared, which
is also how the error state is left (60_exceptions.md R152), and the sequencer is set to its first step.
The free bytes of `OUT` are other ones from here on (notes/assumptions/6.md). -/
def State.beginOperation (s : State) (op : OpCode) : State :=
  { s with
    err := .none, errPos := 0, outLen := 0
    iptr := 0, optr := 0, npad := 0
    phase := if op = 0 then .pEnc else .pChkLen
    st := .busy
    starts := s.starts + 1 }

/-- `raise <Kind>(pos)` (60_exceptions.md R150): the one way an error is taken. -/
def State.raise (s : State) (kind : Err) (pos : Nat) : State :=
  { s with err := kind, errPos := pos, outLen := 0, st := .done }

/-- ENC_FIN and DEC_FIN: `OUT_LEN <- OPTR; ST <- DONE` (R84, R107). -/
def State.finish (s : State) : State := { s with outLen := s.optr, st := .done }

/-- `PHASE <- p` (00_scope.md section 4.3). -/
def State.setPhase (s : State) (p : Phase) : State := { s with phase := p }

/-- The end of a CHKPAD that passes: `NPAD` and `PHASE <- P_CHKCHR` (R102). -/
def State.passPads (s : State) (n : Nat) : State :=
  { s with npad := BitVec.ofNat 2 n, phase := .pChkChr }

/-- The end of a CHKCHR that passes: `PHASE <- P_DEC; IPTR <- 0; OPTR <- 0` (R103). -/
def State.enterGroups (s : State) : State := { s with phase := .pDec, iptr := 0, optr := 0 }

/-- `ACC` and `V0..V3` of the group being processed (R21, R81 to R83, R104 to R106). -/
def State.loadGroup (s : State) (w : GroupWord) (v0 v1 v2 v3 : Sextet) : State :=
  { s with acc := w, v0 := v0, v1 := v1, v2 := v2, v3 := v3 }

/-- `MemWrite(OUT, OPTR, n, out); IPTR <- IPTR + taken; OPTR <- OPTR + n` (R81 to R83, R104 to R106). -/
def State.emit (s : State) (taken : Nat) (out : List Byte) : State :=
  { s with
    outBuf := Memory.writeSeq s.outBuf s.optr out
    iptr := s.iptr + taken
    optr := s.optr + out.length }

/-- The end of every group step: the group in `ACC` and `V0..V3`, its output at `OPTR`, both pointers
moved; an element at or above `CAP_OUT` does not exist (R30). -/
def State.groupStep (s : State) (w : GroupWord) (v0 v1 v2 v3 : Sextet) (taken : Nat)
    (out : List Byte) : Host.Outcome State Fault Refusal :=
  if fits s.cfg.capOut (s.optr + out.length) then
    .next ((s.loadGroup w v0 v1 v2 v3).emit taken out)
  else .fault (.noSuchAddress .outSpace (s.optr + out.length - 1))

/-- The registers and buffers that reset writes besides `REV` (70_reset_and_hazards.md R170, R171 step 2,
10_state.md R25): `IN` and `OUT` hold no defined value afterwards, so their free bytes are other ones from
here on (notes/assumptions/6.md); `PHASE` as notes/assumptions/7.md. The model's other own fields and the
capacities stay (notes/assumptions/20.md). -/
def State.resetRegs (s : State) : State :=
  { s with
    op := 0, inLen := 0, outLen := 0, st := .idle, err := .none, errPos := 0
    inBuf := [], outBuf := [], phase := .pEnc
    iptr := 0, optr := 0, npad := 0, acc := 0, v0 := 0, v1 := 0, v2 := 0, v3 := 0
    resets := s.resets + 1 }

/-! ## The model's own fields -/

/-- A host read delivers `v`; it has no side effect on the block (R131). -/
def State.deliver (s : State) (v : HostValue) : State := { s with readData := some v }

/-- The byte the host sees at `IN[a]`: the one it wrote, else a free one (R25; notes/assumptions/6.md). -/
def State.seenIn (s : State) (a : Nat) : Byte :=
  (Memory.read s.inBuf a).getD (Config.freeIn s.resets a)

/-- The byte the host sees at `OUT[a]`: a valid element's when `ST = DONE` and `a < OUT_LEN`, else a free
one (R20, R26, R176; notes/assumptions/5.md, 6.md). -/
def State.seenOut (s : State) (a : Nat) : Byte :=
  let free := Config.freeOut s.resets s.starts s.optr a
  if s.st = .done ∧ a < s.outLen then (Memory.read s.outBuf a).getD free else free

/-- A table access by itself delivers `m`; it writes no state of the block (R65, R66). -/
def State.showMapping (s : State) (m : Mapping) : State := { s with mapped := some m }

/-- The event a step takes off the list. WAIT DONE stays until `ST = DONE`. -/
def State.pop (s : State) : State :=
  match s.pending with
  | [] => s
  | .waitDone :: rest => if s.st = .done then { s with pending := rest } else s
  | _ :: rest => { s with pending := rest }

end Sys2Proof.Machine
end

