-- ==== Sys2Proof/Machine/Decoder.lean ====
section
/-! DEFINITION. The decoder: the function of R100 and the steps of R101 to R107 (42_decoder.md). -/

namespace Sys2Proof.Machine

/-! ## The output of a group -/

/-- The group word of DEC4 (R104, R48). -/
def dec4Word (rev : Rev) (c0 c1 c2 c3 : Byte) : GroupWord :=
  groupOfSextets (sextetOf rev c0) (sextetOf rev c1) (sextetOf rev c2) (sextetOf rev c3)

/-- The group word of DEC3: `S3 = 0` (R105). -/
def dec3Word (rev : Rev) (c0 c1 c2 : Byte) : GroupWord :=
  groupOfSextets (sextetOf rev c0) (sextetOf rev c1) (sextetOf rev c2) 0

/-- The group word of DEC2: `S2 = S3 = 0` (R106). -/
def dec2Word (rev : Rev) (c0 c1 : Byte) : GroupWord :=
  groupOfSextets (sextetOf rev c0) (sextetOf rev c1) 0 0

/-- `dec4(c0, c1, c2, c3)` (R104). -/
def dec4Bytes (rev : Rev) (c0 c1 c2 c3 : Byte) : List Byte :=
  let w := dec4Word rev c0 c1 c2 c3
  [byte0 w, byte1 w, byte2 w]

/-- `dec3(c0, c1, c2)`; `ACC[7:6]` is dropped without being tested (R105, R109). -/
def dec3Bytes (rev : Rev) (c0 c1 c2 : Byte) : List Byte :=
  let w := dec3Word rev c0 c1 c2
  [byte0 w, byte1 w]

/-- `dec2(c0, c1)`; `ACC[15:12]` is dropped without being tested (R106, R109). -/
def dec2Bytes (rev : Rev) (c0 c1 : Byte) : List Byte :=
  [byte0 (dec2Word rev c0 c1)]

/-- The bytes of one group, by its shape (R100). -/
def decodeGroupBytes (rev : Rev) (c0 c1 c2 c3 : Byte) : List Byte :=
  if c3 ≠ padCode then dec4Bytes rev c0 c1 c2 c3
  else if c2 ≠ padCode then dec3Bytes rev c0 c1 c2
  else dec2Bytes rev c0 c1

/-- The translation of R100: group after group. -/
def decodeGroups (rev : Rev) : List Byte → List Byte
  | c0 :: c1 :: c2 :: c3 :: rest => decodeGroupBytes rev c0 c1 c2 c3 ++ decodeGroups rev rest
  | _ => []

/-- An error with the position R151 gives it. -/
structure DecodeFailure where
  kind : Err
  pos : Nat
  deriving DecidableEq, Repr

/-- `decode(T)` (R100), the three checks in order, each over the whole text (R149), with the position of
R151. -/
def decodeText (rev : Rev) (text : List Byte) : Except DecodeFailure (List Byte) :=
  if text.length % 4 ≠ 0 then .error { kind := .invalidLength, pos := 0 }
  else match firstBadPad text with
    | some i => .error { kind := .invalidPadding, pos := i }
    | none =>
      match firstBadChar rev text with
      | some i => .error { kind := .invalidCharacter, pos := i }
      | none => .ok (decodeGroups rev text)

/-! ## The check steps -/

/-- CHKLEN (R101). -/
def execChkLen (s : State) : Host.Outcome State Fault Refusal :=
  if s.inLen % 4 ≠ 0 then .next (s.raise .invalidLength 0)
  else .next (s.setPhase .pChkPad)

/-- CHKPAD (R102). -/
def execChkPad (s : State) : Host.Outcome State Fault Refusal :=
  match s.readText with
  | .error f => .fault f
  | .ok text =>
    match firstBadPad text with
    | some i => .next (s.raise .invalidPadding i)
    | none => .next (s.passPads (trailingPads text))

/-- CHKCHR (R103). -/
def execChkChr (s : State) : Host.Outcome State Fault Refusal :=
  match s.readText with
  | .error f => .fault f
  | .ok text =>
    match firstBadChar s.rev text with
    | some i => .next (s.raise .invalidCharacter i)
    | none => .next s.enterGroups

/-! ## The group steps -/

/-- DEC4 (R104). -/
def execDec4 (c0 c1 c2 c3 : Byte) (s : State) : Host.Outcome State Fault Refusal :=
  s.groupStep (dec4Word s.rev c0 c1 c2 c3) (sextetOf s.rev c0) (sextetOf s.rev c1)
    (sextetOf s.rev c2) (sextetOf s.rev c3) 4 (dec4Bytes s.rev c0 c1 c2 c3)

/-- DEC3: the pad is not looked up, `V3 <- 0` (R105). -/
def execDec3 (c0 c1 c2 : Byte) (s : State) : Host.Outcome State Fault Refusal :=
  s.groupStep (dec3Word s.rev c0 c1 c2) (sextetOf s.rev c0) (sextetOf s.rev c1)
    (sextetOf s.rev c2) 0 4 (dec3Bytes s.rev c0 c1 c2)

/-- DEC2: the pads are not looked up, `V2 <- 0`, `V3 <- 0` (R106). -/
def execDec2 (c0 c1 : Byte) (s : State) : Host.Outcome State Fault Refusal :=
  s.groupStep (dec2Word s.rev c0 c1) (sextetOf s.rev c0) (sextetOf s.rev c1) 0 0 4
    (dec2Bytes s.rev c0 c1)

/-- DEC_FIN (R107). -/
def execDecFin (s : State) : Host.Outcome State Fault Refusal := .next s.finish

end Sys2Proof.Machine
end

