-- ==== Sys2Proof/Machine/Encoder.lean ====
section
/-! DEFINITION. The encoder: the function of R80 and the steps of R81 to R84 (41_encoder.md). -/

namespace Sys2Proof.Machine

/-! ## The output of a group -/

/-- `enc3(b0, b1, b2)`, shape FULL (R81). -/
def enc3Chars (b0 b1 b2 : Byte) : List Byte :=
  let w := groupOfBytes b0 b1 b2
  [fwdAt (sextet0 w), fwdAt (sextet1 w), fwdAt (sextet2 w), fwdAt (sextet3 w)]

/-- `enc2(b0, b1)`, shape PAD1 (R82). -/
def enc2Chars (b0 b1 : Byte) : List Byte :=
  let w := groupOfBytes b0 b1 0
  [fwdAt (sextet0 w), fwdAt (sextet1 w), fwdAt (sextet2 w), padCode]

/-- `enc1(b0)`, shape PAD2 (R83). -/
def enc1Chars (b0 : Byte) : List Byte :=
  let w := groupOfBytes b0 0 0
  [fwdAt (sextet0 w), fwdAt (sextet1 w), padCode, padCode]

/-- `encode(B)` (R80): the full groups, then the remainder group if there is one. -/
def encodeBytes : List Byte → List Byte
  | b0 :: b1 :: b2 :: rest => enc3Chars b0 b1 b2 ++ encodeBytes rest
  | [b0, b1] => enc2Chars b0 b1
  | [b0] => enc1Chars b0
  | [] => []

/-! ## The steps -/

/-- A group step of the encoder: `ACC <- w`, `V0..V3` its sextets, the four codes out (R81 to R83). -/
def State.encodeGroup (s : State) (w : GroupWord) (taken : Nat) (out : List Byte) :
    Host.Outcome State Fault Refusal :=
  s.groupStep w (sextet0 w) (sextet1 w) (sextet2 w) (sextet3 w) taken out

/-- ENC3 (R81). -/
def execEnc3 (b0 b1 b2 : Byte) (s : State) : Host.Outcome State Fault Refusal :=
  s.encodeGroup (groupOfBytes b0 b1 b2) 3 (enc3Chars b0 b1 b2)

/-- ENC2: the missing third byte counts as 0, and the fourth code is the pad (R82). -/
def execEnc2 (b0 b1 : Byte) (s : State) : Host.Outcome State Fault Refusal :=
  s.encodeGroup (groupOfBytes b0 b1 0) 2 (enc2Chars b0 b1)

/-- ENC1: the two missing bytes count as 0, and the last two codes are pads (R83). -/
def execEnc1 (b0 : Byte) (s : State) : Host.Outcome State Fault Refusal :=
  s.encodeGroup (groupOfBytes b0 0 0) 1 (enc1Chars b0)

/-- ENC_FIN (R84). -/
def execEncFin (s : State) : Host.Outcome State Fault Refusal := .next s.finish

end Sys2Proof.Machine
end

