-- ==== Sys2Proof/Machine/HostCommands.lean ====
section
/-! DEFINITION. START, the two whole operations, and the host's register and buffer accesses
(43_host_commands.md, 10_state.md R26). -/

namespace Sys2Proof.Machine

/-! ## What START is given -/

/-- How many elements of `OUT` the result of operation `op` on `input` needs (00_scope.md R6): none for a
DecodeError (42_decoder.md R113). -/
def resultLength (rev : Rev) (op : OpCode) (input : List Byte) : Nat :=
  if op = 0 then (encodeBytes input).length
  else match decodeText rev input with
    | .ok bytes => bytes.length
    | .error _ => 0

/-- Whether operation `op` reads its input: ENCODE always, DECODE when `IN_LEN mod 4 = 0`; otherwise it
ends in InvalidLength without reading an element (20_memory.md R36, 42_decoder.md R101). -/
def State.readsInput (s : State) (op : OpCode) : Bool := decide (op = 0) || decide (s.inLen % 4 = 0)

/-- The elements of `IN` that a START of operation `op` has it read, none or the whole input (R36); or why
the request lies outside the spec: over capacity (R6, R159), or an element to be read was never written
(20_memory.md R44). -/
def State.acceptInput (s : State) (op : OpCode) : Except Refusal (List Byte) :=
  if fits s.cfg.capIn s.inLen then
    if s.readsInput op then
      match s.inputSeq with
      | none => .error .unwrittenInput
      | some input =>
        if fits s.cfg.capOut (resultLength s.rev op input) then .ok input
        else .error .overCapacity
    else .ok []
  else .error .overCapacity

/-! ## The commands -/

/-- START (R130): accepted when `ST` is `IDLE` or `DONE`; no effect while `ST = BUSY` (R133). -/
def execStart (s : State) : Host.Outcome State Fault Refusal :=
  if s.st = .busy then .next s
  else match s.acceptInput s.op with
    | .error r => .refused r
    | .ok _ => .next (s.beginOperation s.op)

/-- The end of a whole operation with the result `out` (R80 and R100, "Writes"). The working registers
are as the steps leave them, but for `ACC` and `V0..V3`, which stay (notes/assumptions/14.md). -/
def State.succeedWith (s : State) (out : List Byte) (p : Phase) (pads : Nat) : State :=
  { s with
    outBuf := Memory.writeSeq s.outBuf 0 out
    phase := p, npad := BitVec.ofNat 2 pads
    iptr := s.inLen, optr := out.length
    outLen := out.length, st := .done }

/-- ENCODE: `encode(B)` on `B = [IN[0], ..., IN[IN_LEN-1]]`, START to DONE as one step (R80, R90). -/
def execEncode (s : State) : Host.Outcome State Fault Refusal :=
  if s.st = .busy then .next s
  else match s.acceptInput 0 with
    | .error r => .refused r
    | .ok input => .next ((s.beginOperation 0).succeedWith (encodeBytes input) .pEnc 0)

/-- Where the sequencer stands when a DECODE ends in an error: in the check that raised it. -/
def failPhase : Err → Phase
  | .invalidLength => .pChkLen
  | .invalidPadding => .pChkPad
  | _ => .pChkChr

/-- `NPAD` when a DECODE ends in an error: CHKPAD has written it only if CHKCHR is reached. -/
def failPads (kind : Err) (text : List Byte) : Nat :=
  if kind = .invalidCharacter then trailingPads text else 0

/-- The end of a whole DECODE with an error (R100 "Writes on Err", R150, R113): `OUT` is not written. -/
def State.failWith (s : State) (f : DecodeFailure) (text : List Byte) : State :=
  { s.raise f.kind f.pos with
    phase := failPhase f.kind, npad := BitVec.ofNat 2 (failPads f.kind text) }

/-- What DECODE leaves, by the outcome of `decode(T)` (R100). -/
def State.endDecode (s : State) (text : List Byte) : State :=
  match decodeText s.rev text with
  | .ok bytes => (s.beginOperation 1).succeedWith bytes .pDec (trailingPads text)
  | .error f => (s.beginOperation 1).failWith f text

/-- DECODE: `decode(T)` on `T = [IN[0], ..., IN[IN_LEN-1]]`, START to DONE as one step (R100, R114);
InvalidLength whatever `IN` holds, when `IN_LEN mod 4` is not 0 (60_exceptions.md R146). -/
def execDecode (s : State) : Host.Outcome State Fault Refusal :=
  if s.st = .busy then .next s
  else match s.acceptInput 1 with
    | .error r => .refused r
    | .ok text =>
      if s.inLen % 4 ≠ 0 then
        .next ((s.beginOperation 1).failWith { kind := .invalidLength, pos := 0 } text)
      else .next (s.endDecode text)

/-! ## Register and buffer accesses (R26, R135) -/

/-- A host write while `ST = BUSY` is refused (70_reset_and_hazards.md R174). -/
def State.hostWrite (s t : State) : Host.Outcome State Fault Refusal :=
  if s.st = .busy then .refused .hostWriteWhileBusy else .next t

/-- The host writes `IN[a]` (R19, R30). -/
def hostWriteIn (a : Nat) (v : Byte) (s : State) : Host.Outcome State Fault Refusal :=
  if fits s.cfg.capIn (a + 1) then
    s.hostWrite { s with inBuf := Memory.write s.inBuf a v }
  else .fault (.noSuchAddress .inSpace a)

/-- The host reads `IN[a]` (R26): nothing changes but what the host has read, and reading again delivers
the same (20_memory.md R35). -/
def hostReadIn (a : Nat) (s : State) : Host.Outcome State Fault Refusal :=
  if fits s.cfg.capIn (a + 1) then .next (s.deliver (.word (s.seenIn a)))
  else .fault (.noSuchAddress .inSpace a)

/-- The host reads `OUT[a]` (R20, R26, R176), with the same idempotence (R35). -/
def hostReadOut (a : Nat) (s : State) : Host.Outcome State Fault Refusal :=
  if fits s.cfg.capOut (a + 1) then .next (s.deliver (.word (s.seenOut a)))
  else .fault (.noSuchAddress .outSpace a)

/-- One access of the host (R26). A register read has no side effect (R131). `OUT_LEN` and `ERR_POS` read
0 while `ST = BUSY` (R26, C9), whatever they hold. The events that are not accesses do nothing here. -/
def hostAccess (e : Event) (s : State) : Host.Outcome State Fault Refusal :=
  match e with
  | .writeOp v => s.hostWrite { s with op := v }
  | .writeInLen n => s.hostWrite { s with inLen := n }
  | .writeIn a v => hostWriteIn a v s
  | .readOp => .next (s.deliver (.bit (decide (s.op = 1))))
  | .readInLen => .next (s.deliver (.number s.inLen))
  | .readIn a => hostReadIn a s
  | .readStatus => .next (s.deliver (.word s.statusWord))
  | .readErrPos => .next (s.deliver (.number (if s.st = .busy then 0 else s.errPos)))
  | .readOutLen => .next (s.deliver (.number (if s.st = .busy then 0 else s.outLen)))
  | .readOut a => hostReadOut a s
  | .readDone => .next (s.deliver (.bit s.doneLevel))
  | .reset | .start | .call | .waitDone | .silent => .next s
  | .symbolFor _ | .indexFor _ | .character _ => .next s

end Sys2Proof.Machine
end

