-- ==== Sys2Proof/Machine/Symbols.lean ====
section
/-! DEFINITION. The meanings of the 64 symbol codes and of the pad code (30_encoding.md R50, R51): a
character code put before the alphabet mapper by itself (notes/assumptions/3.md). -/

namespace Sys2Proof.Machine

/-- The symbol of index `i`: its code is `FWD[i]` (R50), and the reverse table says which index that
code stands for (R66). It writes no state of the block, only the model's own `mapped`. -/
def showSymbol (i : Sextet) (s : State) : Host.Outcome State Fault Refusal :=
  .next (s.showMapping { code := fwdAt i, index := indexOf s.rev (fwdAt i) })

/-- `SYMBOL_00_A` (R50). -/
def execSymbol00A (s : State) : Host.Outcome State Fault Refusal := showSymbol 0 s
/-- `SYMBOL_01_B` (R50). -/
def execSymbol01B (s : State) : Host.Outcome State Fault Refusal := showSymbol 1 s
/-- `SYMBOL_02_C` (R50). -/
def execSymbol02C (s : State) : Host.Outcome State Fault Refusal := showSymbol 2 s
/-- `SYMBOL_03_D` (R50). -/
def execSymbol03D (s : State) : Host.Outcome State Fault Refusal := showSymbol 3 s
/-- `SYMBOL_04_E` (R50). -/
def execSymbol04E (s : State) : Host.Outcome State Fault Refusal := showSymbol 4 s
/-- `SYMBOL_05_F` (R50). -/
def execSymbol05F (s : State) : Host.Outcome State Fault Refusal := showSymbol 5 s
/-- `SYMBOL_06_G` (R50). -/
def execSymbol06G (s : State) : Host.Outcome State Fault Refusal := showSymbol 6 s
/-- `SYMBOL_07_H` (R50). -/
def execSymbol07H (s : State) : Host.Outcome State Fault Refusal := showSymbol 7 s
/-- `SYMBOL_08_I` (R50). -/
def execSymbol08I (s : State) : Host.Outcome State Fault Refusal := showSymbol 8 s
/-- `SYMBOL_09_J` (R50). -/
def execSymbol09J (s : State) : Host.Outcome State Fault Refusal := showSymbol 9 s
/-- `SYMBOL_10_K` (R50). -/
def execSymbol10K (s : State) : Host.Outcome State Fault Refusal := showSymbol 10 s
/-- `SYMBOL_11_L` (R50). -/
def execSymbol11L (s : State) : Host.Outcome State Fault Refusal := showSymbol 11 s
/-- `SYMBOL_12_M` (R50). -/
def execSymbol12M (s : State) : Host.Outcome State Fault Refusal := showSymbol 12 s
/-- `SYMBOL_13_N` (R50). -/
def execSymbol13N (s : State) : Host.Outcome State Fault Refusal := showSymbol 13 s
/-- `SYMBOL_14_O` (R50). -/
def execSymbol14O (s : State) : Host.Outcome State Fault Refusal := showSymbol 14 s
/-- `SYMBOL_15_P` (R50). -/
def execSymbol15P (s : State) : Host.Outcome State Fault Refusal := showSymbol 15 s
/-- `SYMBOL_16_Q` (R50). -/
def execSymbol16Q (s : State) : Host.Outcome State Fault Refusal := showSymbol 16 s
/-- `SYMBOL_17_R` (R50). -/
def execSymbol17R (s : State) : Host.Outcome State Fault Refusal := showSymbol 17 s
/-- `SYMBOL_18_S` (R50). -/
def execSymbol18S (s : State) : Host.Outcome State Fault Refusal := showSymbol 18 s
/-- `SYMBOL_19_T` (R50). -/
def execSymbol19T (s : State) : Host.Outcome State Fault Refusal := showSymbol 19 s
/-- `SYMBOL_20_U` (R50). -/
def execSymbol20U (s : State) : Host.Outcome State Fault Refusal := showSymbol 20 s
/-- `SYMBOL_21_V` (R50). -/
def execSymbol21V (s : State) : Host.Outcome State Fault Refusal := showSymbol 21 s
/-- `SYMBOL_22_W` (R50). -/
def execSymbol22W (s : State) : Host.Outcome State Fault Refusal := showSymbol 22 s
/-- `SYMBOL_23_X` (R50). -/
def execSymbol23X (s : State) : Host.Outcome State Fault Refusal := showSymbol 23 s
/-- `SYMBOL_24_Y` (R50). -/
def execSymbol24Y (s : State) : Host.Outcome State Fault Refusal := showSymbol 24 s
/-- `SYMBOL_25_Z` (R50). -/
def execSymbol25Z (s : State) : Host.Outcome State Fault Refusal := showSymbol 25 s
/-- `SYMBOL_26_a` (R50). -/
def execSymbol26a (s : State) : Host.Outcome State Fault Refusal := showSymbol 26 s
/-- `SYMBOL_27_b` (R50). -/
def execSymbol27b (s : State) : Host.Outcome State Fault Refusal := showSymbol 27 s
/-- `SYMBOL_28_c` (R50). -/
def execSymbol28c (s : State) : Host.Outcome State Fault Refusal := showSymbol 28 s
/-- `SYMBOL_29_d` (R50). -/
def execSymbol29d (s : State) : Host.Outcome State Fault Refusal := showSymbol 29 s
/-- `SYMBOL_30_e` (R50). -/
def execSymbol30e (s : State) : Host.Outcome State Fault Refusal := showSymbol 30 s
/-- `SYMBOL_31_f` (R50). -/
def execSymbol31f (s : State) : Host.Outcome State Fault Refusal := showSymbol 31 s
/-- `SYMBOL_32_g` (R50). -/
def execSymbol32g (s : State) : Host.Outcome State Fault Refusal := showSymbol 32 s
/-- `SYMBOL_33_h` (R50). -/
def execSymbol33h (s : State) : Host.Outcome State Fault Refusal := showSymbol 33 s
/-- `SYMBOL_34_i` (R50). -/
def execSymbol34i (s : State) : Host.Outcome State Fault Refusal := showSymbol 34 s
/-- `SYMBOL_35_j` (R50). -/
def execSymbol35j (s : State) : Host.Outcome State Fault Refusal := showSymbol 35 s
/-- `SYMBOL_36_k` (R50). -/
def execSymbol36k (s : State) : Host.Outcome State Fault Refusal := showSymbol 36 s
/-- `SYMBOL_37_l` (R50). -/
def execSymbol37l (s : State) : Host.Outcome State Fault Refusal := showSymbol 37 s
/-- `SYMBOL_38_m` (R50). -/
def execSymbol38m (s : State) : Host.Outcome State Fault Refusal := showSymbol 38 s
/-- `SYMBOL_39_n` (R50). -/
def execSymbol39n (s : State) : Host.Outcome State Fault Refusal := showSymbol 39 s
/-- `SYMBOL_40_o` (R50). -/
def execSymbol40o (s : State) : Host.Outcome State Fault Refusal := showSymbol 40 s
/-- `SYMBOL_41_p` (R50). -/
def execSymbol41p (s : State) : Host.Outcome State Fault Refusal := showSymbol 41 s
/-- `SYMBOL_42_q` (R50). -/
def execSymbol42q (s : State) : Host.Outcome State Fault Refusal := showSymbol 42 s
/-- `SYMBOL_43_r` (R50). -/
def execSymbol43r (s : State) : Host.Outcome State Fault Refusal := showSymbol 43 s
/-- `SYMBOL_44_s` (R50). -/
def execSymbol44s (s : State) : Host.Outcome State Fault Refusal := showSymbol 44 s
/-- `SYMBOL_45_t` (R50). -/
def execSymbol45t (s : State) : Host.Outcome State Fault Refusal := showSymbol 45 s
/-- `SYMBOL_46_u` (R50). -/
def execSymbol46u (s : State) : Host.Outcome State Fault Refusal := showSymbol 46 s
/-- `SYMBOL_47_v` (R50). -/
def execSymbol47v (s : State) : Host.Outcome State Fault Refusal := showSymbol 47 s
/-- `SYMBOL_48_w` (R50). -/
def execSymbol48w (s : State) : Host.Outcome State Fault Refusal := showSymbol 48 s
/-- `SYMBOL_49_x` (R50). -/
def execSymbol49x (s : State) : Host.Outcome State Fault Refusal := showSymbol 49 s
/-- `SYMBOL_50_y` (R50). -/
def execSymbol50y (s : State) : Host.Outcome State Fault Refusal := showSymbol 50 s
/-- `SYMBOL_51_z` (R50). -/
def execSymbol51z (s : State) : Host.Outcome State Fault Refusal := showSymbol 51 s
/-- `SYMBOL_52_0` (R50). -/
def execSymbol520 (s : State) : Host.Outcome State Fault Refusal := showSymbol 52 s
/-- `SYMBOL_53_1` (R50). -/
def execSymbol531 (s : State) : Host.Outcome State Fault Refusal := showSymbol 53 s
/-- `SYMBOL_54_2` (R50). -/
def execSymbol542 (s : State) : Host.Outcome State Fault Refusal := showSymbol 54 s
/-- `SYMBOL_55_3` (R50). -/
def execSymbol553 (s : State) : Host.Outcome State Fault Refusal := showSymbol 55 s
/-- `SYMBOL_56_4` (R50). -/
def execSymbol564 (s : State) : Host.Outcome State Fault Refusal := showSymbol 56 s
/-- `SYMBOL_57_5` (R50). -/
def execSymbol575 (s : State) : Host.Outcome State Fault Refusal := showSymbol 57 s
/-- `SYMBOL_58_6` (R50). -/
def execSymbol586 (s : State) : Host.Outcome State Fault Refusal := showSymbol 58 s
/-- `SYMBOL_59_7` (R50). -/
def execSymbol597 (s : State) : Host.Outcome State Fault Refusal := showSymbol 59 s
/-- `SYMBOL_60_8` (R50). -/
def execSymbol608 (s : State) : Host.Outcome State Fault Refusal := showSymbol 60 s
/-- `SYMBOL_61_9` (R50). -/
def execSymbol619 (s : State) : Host.Outcome State Fault Refusal := showSymbol 61 s
/-- `SYMBOL_62_PLUS` (R50). -/
def execSymbol62Plus (s : State) : Host.Outcome State Fault Refusal := showSymbol 62 s
/-- `SYMBOL_63_SLASH` (R50). -/
def execSymbol63Slash (s : State) : Host.Outcome State Fault Refusal := showSymbol 63 s

/-- `PAD` (R51, R12): "the distinguished padding symbol", no entry of `FWD`; the decoder does not look
it up, and it stands for no index (R66, R103). -/
def execPad (s : State) : Host.Outcome State Fault Refusal :=
  .next (s.showMapping { code := padCode, index := none })

end Sys2Proof.Machine
end

