-- ==== Sys2Proof/Machine/Table.lean ====
section
/-! DEFINITION. The alphabet table's operations (40_alphabet_table.md). The two lookups write no state of
the block; run by themselves they leave their result in the model's own `mapped`
(notes/assumptions/3.md). -/

namespace Sys2Proof.Machine

/-- SYMBOL_FOR (R65). -/
def execSymbolFor (i : Sextet) (s : State) : Host.Outcome State Fault Refusal :=
  .next (s.showMapping { code := symbolOf i, index := some i })

/-- INDEX_FOR (R66): "`none` is a value, not an error". -/
def execIndexFor (c : Byte) (s : State) : Host.Outcome State Fault Refusal :=
  .next (s.showMapping { code := c, index := indexOf s.rev c })

/-- BUILD_REV (R67): writes all of `REV` and nothing else. -/
def execBuildRev (s : State) : Host.Outcome State Fault Refusal := .next { s with rev := builtRev }

end Sys2Proof.Machine
end

