-- ==== Sys2Proof/Machine/Dispatch.lean ====
section
/-! DEFINITION. Which meaning each instruction has: one arm for each constructor of Instr. -/

namespace Sys2Proof.Machine

def exec (i : Instr) (s : State) : Host.Outcome State Fault Refusal :=
  match i with
  | .start => Sys2Proof.Machine.execStart s
  | .encode => Sys2Proof.Machine.execEncode s
  | .decode => Sys2Proof.Machine.execDecode s
  | .enc3 b0 b1 b2 => Sys2Proof.Machine.execEnc3 b0 b1 b2 s
  | .enc2 b0 b1 => Sys2Proof.Machine.execEnc2 b0 b1 s
  | .enc1 b0 => Sys2Proof.Machine.execEnc1 b0 s
  | .encFin => Sys2Proof.Machine.execEncFin s
  | .chkLen => Sys2Proof.Machine.execChkLen s
  | .chkPad => Sys2Proof.Machine.execChkPad s
  | .chkChr => Sys2Proof.Machine.execChkChr s
  | .dec4 c0 c1 c2 c3 => Sys2Proof.Machine.execDec4 c0 c1 c2 c3 s
  | .dec3 c0 c1 c2 => Sys2Proof.Machine.execDec3 c0 c1 c2 s
  | .dec2 c0 c1 => Sys2Proof.Machine.execDec2 c0 c1 s
  | .decFin => Sys2Proof.Machine.execDecFin s
  | .symbolFor k => Sys2Proof.Machine.execSymbolFor k s
  | .indexFor c => Sys2Proof.Machine.execIndexFor c s
  | .buildRev => Sys2Proof.Machine.execBuildRev s
  | .symbol00A => Sys2Proof.Machine.execSymbol00A s
  | .symbol01B => Sys2Proof.Machine.execSymbol01B s
  | .symbol02C => Sys2Proof.Machine.execSymbol02C s
  | .symbol03D => Sys2Proof.Machine.execSymbol03D s
  | .symbol04E => Sys2Proof.Machine.execSymbol04E s
  | .symbol05F => Sys2Proof.Machine.execSymbol05F s
  | .symbol06G => Sys2Proof.Machine.execSymbol06G s
  | .symbol07H => Sys2Proof.Machine.execSymbol07H s
  | .symbol08I => Sys2Proof.Machine.execSymbol08I s
  | .symbol09J => Sys2Proof.Machine.execSymbol09J s
  | .symbol10K => Sys2Proof.Machine.execSymbol10K s
  | .symbol11L => Sys2Proof.Machine.execSymbol11L s
  | .symbol12M => Sys2Proof.Machine.execSymbol12M s
  | .symbol13N => Sys2Proof.Machine.execSymbol13N s
  | .symbol14O => Sys2Proof.Machine.execSymbol14O s
  | .symbol15P => Sys2Proof.Machine.execSymbol15P s
  | .symbol16Q => Sys2Proof.Machine.execSymbol16Q s
  | .symbol17R => Sys2Proof.Machine.execSymbol17R s
  | .symbol18S => Sys2Proof.Machine.execSymbol18S s
  | .symbol19T => Sys2Proof.Machine.execSymbol19T s
  | .symbol20U => Sys2Proof.Machine.execSymbol20U s
  | .symbol21V => Sys2Proof.Machine.execSymbol21V s
  | .symbol22W => Sys2Proof.Machine.execSymbol22W s
  | .symbol23X => Sys2Proof.Machine.execSymbol23X s
  | .symbol24Y => Sys2Proof.Machine.execSymbol24Y s
  | .symbol25Z => Sys2Proof.Machine.execSymbol25Z s
  | .symbol26a => Sys2Proof.Machine.execSymbol26a s
  | .symbol27b => Sys2Proof.Machine.execSymbol27b s
  | .symbol28c => Sys2Proof.Machine.execSymbol28c s
  | .symbol29d => Sys2Proof.Machine.execSymbol29d s
  | .symbol30e => Sys2Proof.Machine.execSymbol30e s
  | .symbol31f => Sys2Proof.Machine.execSymbol31f s
  | .symbol32g => Sys2Proof.Machine.execSymbol32g s
  | .symbol33h => Sys2Proof.Machine.execSymbol33h s
  | .symbol34i => Sys2Proof.Machine.execSymbol34i s
  | .symbol35j => Sys2Proof.Machine.execSymbol35j s
  | .symbol36k => Sys2Proof.Machine.execSymbol36k s
  | .symbol37l => Sys2Proof.Machine.execSymbol37l s
  | .symbol38m => Sys2Proof.Machine.execSymbol38m s
  | .symbol39n => Sys2Proof.Machine.execSymbol39n s
  | .symbol40o => Sys2Proof.Machine.execSymbol40o s
  | .symbol41p => Sys2Proof.Machine.execSymbol41p s
  | .symbol42q => Sys2Proof.Machine.execSymbol42q s
  | .symbol43r => Sys2Proof.Machine.execSymbol43r s
  | .symbol44s => Sys2Proof.Machine.execSymbol44s s
  | .symbol45t => Sys2Proof.Machine.execSymbol45t s
  | .symbol46u => Sys2Proof.Machine.execSymbol46u s
  | .symbol47v => Sys2Proof.Machine.execSymbol47v s
  | .symbol48w => Sys2Proof.Machine.execSymbol48w s
  | .symbol49x => Sys2Proof.Machine.execSymbol49x s
  | .symbol50y => Sys2Proof.Machine.execSymbol50y s
  | .symbol51z => Sys2Proof.Machine.execSymbol51z s
  | .symbol520 => Sys2Proof.Machine.execSymbol520 s
  | .symbol531 => Sys2Proof.Machine.execSymbol531 s
  | .symbol542 => Sys2Proof.Machine.execSymbol542 s
  | .symbol553 => Sys2Proof.Machine.execSymbol553 s
  | .symbol564 => Sys2Proof.Machine.execSymbol564 s
  | .symbol575 => Sys2Proof.Machine.execSymbol575 s
  | .symbol586 => Sys2Proof.Machine.execSymbol586 s
  | .symbol597 => Sys2Proof.Machine.execSymbol597 s
  | .symbol608 => Sys2Proof.Machine.execSymbol608 s
  | .symbol619 => Sys2Proof.Machine.execSymbol619 s
  | .symbol62Plus => Sys2Proof.Machine.execSymbol62Plus s
  | .symbol63Slash => Sys2Proof.Machine.execSymbol63Slash s
  | .pad => Sys2Proof.Machine.execPad s

end Sys2Proof.Machine
end

