-- ==== Sys2Proof/Machine/Sequencer.lean ====
section
/-! DEFINITION. What happens next: the selection table of 30_encoding.md R60 and the transitions of
43_host_commands.md R132. It stands for the fetch: the operand word comes from `IN` at `IPTR`. -/

namespace Sys2Proof.Machine

/-- What the next step does. -/
inductive Activity where
  /-- It runs the instruction of a packet. -/
  | run (p : Packet)
  /-- It is a host access. -/
  | access (e : Event)
  /-- No step is enabled (R132, last row). -/
  | rest
  /-- The fetch of the operand word stops. -/
  | stuck (f : Fault)
  deriving DecidableEq, Repr

/-- The operand word of a group step: `n` elements of `IN` at `IPTR`. -/
def State.fetchRun (s : State) (n : Nat) (pack : List Byte → Packet) : Activity :=
  match s.readInSeq s.iptr n with
  | .ok run => .run (pack run)
  | .error f => .stuck f

/-- `PHASE = P_ENC`: ENC3, ENC2, ENC1 or ENC_FIN by `IN_LEN - IPTR` (R60, R81 to R85). -/
def State.selectEncode (s : State) : Activity :=
  if s.inLen < s.iptr then .stuck .noStepSelected
  else if s.inLen = s.iptr then .run (.step .encFin)
  else s.fetchRun (min 3 (s.inLen - s.iptr)) fun run => .g24 run.length (groupOfRun run)

/-- `PHASE = P_DEC`: a group step while `IPTR < IN_LEN`, DEC_FIN when `IPTR = IN_LEN` (R60, R104 to R107). -/
def State.selectDecode (s : State) : Activity :=
  if s.inLen < s.iptr then .stuck .noStepSelected
  else if s.inLen = s.iptr then .run (.step .decFin)
  else s.fetchRun 4 fun run => .c32 (charsOfRun run)

/-- The sequencer's next step by `PHASE` (R60, R132). -/
def State.selectStep (s : State) : Activity :=
  match s.phase with
  | .pEnc => s.selectEncode
  | .pChkLen => .run (.step .chkLen)
  | .pChkPad => .run (.step .chkPad)
  | .pChkChr => .run (.step .chkChr)
  | .pDec => s.selectDecode

/-- The sequencer has a step exactly while `ST = BUSY` (R27 b, R132). -/
def State.sequencer (s : State) : Activity :=
  if s.st = .busy then s.selectStep else .rest

/-- The next step: the event at the head of `pending`; the sequencer when there is none, or the host
waits (notes/assumptions/1.md). -/
def State.activity (s : State) : Activity :=
  match s.pending with
  | [] => s.sequencer
  | e :: _ =>
    match e with
    | .reset => .run .reset
    | .start => .run .hostcmd
    | .call => .run (.cmd s.op)
    | .waitDone | .silent => s.sequencer
    | .symbolFor i => .run (.index i)
    | .indexFor c => .run (.code c)
    | .character c => .run (.sym c)
    | .writeOp _ | .writeInLen _ | .writeIn _ _ => .access e
    | .readOp | .readInLen | .readIn _ | .readStatus => .access e
    | .readErrPos | .readOutLen | .readOut _ | .readDone => .access e

/-- What the step adds around `exec`: after BUILD_REV, reset writes the registers (R171 step 2, R132 first
row). Nothing for any other packet. -/
def afterExec (p : Packet) (o : Host.Outcome State Fault Refusal) : Host.Outcome State Fault Refusal :=
  match p, o with
  | .reset, .next t => .next t.resetRegs
  | _, o => o

/-- A packet is decoded and its instruction run. -/
def runPacket (p : Packet) (s : State) : Host.Outcome State Fault Refusal :=
  match decode p with
  | .ok i => afterExec p (exec i s)
  | .error r => .refused (.undecodable r)

/-- An activity carried out. -/
def perform (a : Activity) (s : State) : Host.Outcome State Fault Refusal :=
  match a with
  | .run p => runPacket p s
  | .access e => hostAccess e s
  | .rest => .next s
  | .stuck f => .fault f

/-! ## A given packet as the next step -/

/-- The first `n` bytes of a group word (R46). -/
def groupRun (n : Nat) (w : GroupWord) : List Byte := [byte0 w, byte1 w, byte2 w].take n

/-- The four codes of a `C32` word (R49). -/
def charRun (w : CharWord) : List Byte := [char0 w, char1 w, char2 w, char3 w]

/-- The sequencer is made to stand before one last group `run` in phase `p`. -/
def State.placeRun (s : State) (p : Phase) (run : List Byte) : State :=
  { s with
    st := .busy, phase := p, pending := []
    inBuf := Memory.writeSeq s.inBuf s.iptr run
    inLen := s.iptr + run.length }

/-- The sequencer is made to stand before a step without an operand word. -/
def State.placeStep (s : State) : StepRow → State
  | .encFin => { s with st := .busy, phase := .pEnc, pending := [], inLen := s.iptr }
  | .chkLen => { s with st := .busy, phase := .pChkLen, pending := [] }
  | .chkPad => { s with st := .busy, phase := .pChkPad, pending := [] }
  | .chkChr => { s with st := .busy, phase := .pChkChr, pending := [] }
  | .decFin => { s with st := .busy, phase := .pDec, pending := [], inLen := s.iptr }

/-- The state in which the next step runs packet `p`: what R60 says selects it (notes/assumptions/17.md). -/
def State.withPacket (s : State) : Packet → State
  | .hostcmd => { s with pending := .start :: s.pending }
  | .cmd w => { s with op := w, pending := .call :: s.pending }
  | .reset => { s with pending := .reset :: s.pending }
  | .step r => s.placeStep r
  | .g24 n w => s.placeRun .pEnc (groupRun n w)
  | .c32 w => s.placeRun .pDec (charRun w)
  | .index i => { s with pending := .symbolFor i :: s.pending }
  | .code c => { s with pending := .indexFor c :: s.pending }
  | .sym c => { s with pending := .character c :: s.pending }

end Sys2Proof.Machine
end

