-- ==== Sys2Proof/Machine/Step.lean ====
section
/-! DEFINITION. One step of the machine, and a given table word as the next step. -/

namespace Sys2Proof.Machine

/-- One step: the next event or the sequencer's next step (43_host_commands.md R132). -/
def step (s : State) : Host.Outcome State Fault Refusal := perform s.activity s.pop

/-- `s` with a table row's bits where the next step takes its operand word from. -/
def State.withFetchWord (s : State) (nbits w : Nat) : State :=
  match tablePacket nbits w with
  | some p => s.withPacket p
  | none => s

end Sys2Proof.Machine
end

