-- ==== Sys2Proof/Safety.lean ====
section
/-! DEFINITION. The terms the claims use: the spec's own closed forms and error conditions, the result of
an operation, and the invariant of a run. -/

namespace Sys2Proof.Machine

/-! ## The spec's closed forms -/

/-- The closed form of `FWD` (30_encoding.md R52). -/
def symbolClosed (i : Sextet) : Byte :=
  let n := i.toNat
  if n ≤ 25 then BitVec.ofNat 8 (0x41 + n)
  else if n ≤ 51 then BitVec.ofNat 8 (0x61 + (n - 26))
  else if n ≤ 61 then BitVec.ofNat 8 (0x30 + (n - 52))
  else if n = 62 then 0x2B
  else 0x2F

/-- The closed form of the reverse mapping (30_encoding.md R53). -/
def indexClosed (c : Byte) : Option Sextet :=
  let n := c.toNat
  if 0x41 ≤ n ∧ n ≤ 0x5A then some (BitVec.ofNat 6 (n - 0x41))
  else if 0x61 ≤ n ∧ n ≤ 0x7A then some (BitVec.ofNat 6 (n - 0x61 + 26))
  else if 0x30 ≤ n ∧ n ≤ 0x39 then some (BitVec.ofNat 6 (n - 0x30 + 52))
  else if n = 0x2B then some 62
  else if n = 0x2F then some 63
  else none

/-- The illegal codes, range by range (30_encoding.md R54). -/
def IllegalCode (c : Byte) : Prop :=
  c.toNat ≤ 0x2A ∨ (0x2C ≤ c.toNat ∧ c.toNat ≤ 0x2E) ∨ (0x3A ≤ c.toNat ∧ c.toNat ≤ 0x3C) ∨
  (0x3E ≤ c.toNat ∧ c.toNat ≤ 0x40) ∨ (0x5B ≤ c.toNat ∧ c.toNat ≤ 0x60) ∨ 0x7B ≤ c.toNat

/-! ## The error conditions -/

/-- The character at `i` is a pad and stands where R147 does not allow one. -/
def MisplacedPad (text : List Byte) (i : Nat) : Prop :=
  text[i]? = some 0x3D ∧
    ¬ (i + 1 = text.length ∨ (i + 2 = text.length ∧ text[i + 1]? = some 0x3D))

/-- The character at `i` is no pad and has no index in `rev` (R148). -/
def UnresolvedChar (rev : Rev) (text : List Byte) (i : Nat) : Prop :=
  ∃ c, text[i]? = some c ∧ c ≠ 0x3D ∧ indexOf rev c = none

/-- `i` is the least index with `P` (R151). -/
def Least (P : Nat → Prop) (i : Nat) : Prop := P i ∧ ∀ j, j < i → ¬ P j

/-! ## Inputs and results -/

/-- The next state of an outcome. -/
def nextState (o : Host.Outcome State Fault Refusal) : Option State :=
  match o with
  | .next s => some s
  | .fault _ => none
  | .refused _ => none

/-- The host has written `input` as the input of the next operation, within the capacity of `IN`
(43_host_commands.md R135; 20_memory.md R31; 00_scope.md R6). -/
def State.HasInput (s : State) (input : List Byte) : Prop :=
  s.inLen = input.length ∧ (∀ i, i < input.length → Memory.read s.inBuf i = input[i]?) ∧
    fits s.cfg.capIn input.length = true

/-- The sequencer is not held up by a host action: the host is silent or waits (R135). -/
def State.hostQuiet (s : State) : Bool :=
  match s.pending with
  | [] => true
  | e :: _ => decide (e = .waitDone) || decide (e = .silent)

/-- What an operation leaves for the host at `ST = DONE` (10_state.md R24). -/
structure OpResult where
  err : Err
  errPos : Nat
  outLen : Nat
  output : Option (List Byte)
  deriving DecidableEq, Repr

/-- `ERR`, `ERR_POS`, `OUT_LEN` and `OUT[0..OUT_LEN-1]` (R24). -/
def State.result (s : State) : OpResult :=
  { err := s.err, errPos := s.errPos, outLen := s.outLen, output := s.outputSeq }

/-- The result R80 gives ENCODE on `input`. -/
def encodeResult (input : List Byte) : OpResult :=
  { err := .none, errPos := 0, outLen := (encodeBytes input).length
    output := some (encodeBytes input) }

/-- The result R100 and R151 give DECODE on `text`. -/
def decodeResult (rev : Rev) (text : List Byte) : OpResult :=
  match decodeText rev text with
  | .ok bytes => { err := .none, errPos := 0, outLen := bytes.length, output := some bytes }
  | .error f => { err := f.kind, errPos := f.pos, outLen := 0, output := some [] }

/-- How many sequencer steps a DECODE takes (70_reset_and_hazards.md R179). -/
def decodeSteps (rev : Rev) (text : List Byte) : Nat :=
  match decodeText rev text with
  | .ok _ => text.length / 4 + 4
  | .error f =>
    match f.kind with
    | .invalidLength => 1
    | .invalidPadding => 2
    | _ => 3

/-- The group's registers, which no step carries to the next (R21), set aside: to compare two states in
everything else. -/
def State.withoutGroup (s : State) : State := s.loadGroup 0 0 0 0 0

/-- `k` steps of the machine, stopping at the first fault or refusal. -/
def runSteps : Nat → State → Host.Outcome State Fault Refusal
  | 0, s => .next s
  | k + 1, s =>
    match step s with
    | .next t => runSteps k t
    | .fault f => .fault f
    | .refused r => .refused r

/-! ## Which instructions store what -/

/-- The elements of `OUT` a group step stores to: as many as it emits, from `OPTR` on (R37). -/
def storedCount : Instr → Nat
  | .enc3 _ _ _ | .enc2 _ _ | .enc1 _ => 4
  | .dec4 _ _ _ _ => 3
  | .dec3 _ _ _ => 2
  | .dec2 _ _ => 1
  | _ => 0

/-- The sequencer's steps and the table operations: everything but START and the two whole operations. -/
def isStep : Instr → Bool
  | .start | .encode | .decode => false
  | _ => true

/-! ## The invariant of a run -/

/-- `OUT[0..OPTR-1]` holds `out`, and `OPTR` is its length. -/
def State.HasOutput (s : State) (out : List Byte) : Prop :=
  s.optr = out.length ∧ Memory.readSeq s.outBuf 0 s.optr = some out

/-- A DECODE whose text has passed CHKLEN and CHKPAD (R101, R102). -/
def PadsChecked (text : List Byte) : Prop := text.length % 4 = 0 ∧ firstBadPad text = none

/-- The input is intact, and what each phase has established of it and of the working registers
(R85, R101 to R108, R24). -/
def State.BusyOn (s : State) (input : List Byte) : Prop :=
  s.HasInput input ∧
  match s.phase with
  | .pEnc =>
    fits s.cfg.capOut (encodeBytes input).length = true ∧ s.iptr ≤ input.length ∧
      (s.iptr % 3 = 0 ∨ s.iptr = input.length) ∧ s.HasOutput (encodeBytes (input.take s.iptr))
  | .pChkLen => fits s.cfg.capOut (resultLength s.rev 1 input) = true
  | .pChkPad => fits s.cfg.capOut (resultLength s.rev 1 input) = true ∧ input.length % 4 = 0
  | .pChkChr =>
    fits s.cfg.capOut (resultLength s.rev 1 input) = true ∧ PadsChecked input ∧
      s.npad.toNat = trailingPads input
  | .pDec =>
    fits s.cfg.capOut (resultLength s.rev 1 input) = true ∧ PadsChecked input ∧
      firstBadChar s.rev input = none ∧ s.npad.toNat = trailingPads input ∧
      s.iptr ≤ input.length ∧ s.iptr % 4 = 0 ∧
      s.HasOutput (decodeGroups s.rev (input.take s.iptr))

/-- The invariant: the buffers keep their canonical form; `REV` is as BUILD_REV leaves it (R41, R70);
outside `DONE` the result registers are clear (R17, R18, R26); at `DONE` an error leaves no output and
only InvalidPadding and InvalidCharacter a position (R18, R151), and every valid element of `OUT` is
written (R20); while `BUSY`, what the operation has established (R24, R85, R108), or else CHKLEN is about to
raise InvalidLength, whatever `IN` holds (R36, R146). -/
structure Inv (s : State) : Prop where
  inWf : Memory.wf s.inBuf = true
  outWf : Memory.wf s.outBuf = true
  revBuilt : s.rev = builtRev
  clear : s.st ≠ .done → s.err = .none ∧ s.errPos = 0 ∧ s.outLen = 0
  noPartial : s.st = .done → s.err ≠ .none → s.outLen = 0
  position : s.st = .done → s.err = .none ∨ s.err = .invalidLength → s.errPos = 0
  written : s.st = .done → ∃ out, s.outputSeq = some out
  busy : s.st = .busy → (s.phase = .pChkLen ∧ s.inLen % 4 ≠ 0) ∨ ∃ input, s.BusyOn input

end Sys2Proof.Machine
end

