-- ==== Sys2Proof/Certificates/Slice0/Obligations.lean ====
section
/-! DEFINITION. The statements for the provers. Each docstring names the rule it formalises; where a
clause rests on a choice of this model, it says so and names the log entry. -/

open Sys2Proof Sys2Proof.Machine

/-! ## Encoding -/

/-- Words written out bit by bit from the spec's formats, and the instructions they stand for
(R46, R49, R50, R51, R55, 95_test_vectors.md V2, V3, V4). -/
def Obligations.SpecWordsDecode : Prop :=
  decode (.g24 3 0b010011010110000101101110) = .ok (.enc3 0x4D 0x61 0x6E) ∧
  decode (.g24 2 0b010011010110000100000000) = .ok (.enc2 0x4D 0x61) ∧
  decode (.g24 1 0b010011010000000000000000) = .ok (.enc1 0x4D) ∧
  decode (.c32 0b01010100010101110100011001110101) = .ok (.dec4 0x54 0x57 0x46 0x75) ∧
  decode (.c32 0b01010100010101110100010100111101) = .ok (.dec3 0x54 0x57 0x45) ∧
  decode (.c32 0b01010100010100010011110100111101) = .ok (.dec2 0x54 0x51) ∧
  decode (.cmd 0b0) = .ok .encode ∧
  decode (.cmd 0b1) = .ok .decode ∧
  decode (.sym 0b01010100) = .ok .symbol19T ∧
  decode (.sym 0b00101111) = .ok .symbol63Slash ∧
  decode (.sym 0b00111101) = .ok .pad ∧
  decode (.index 0b010011) = .ok (.symbolFor 19) ∧
  decode (.code 0b00111101) = .ok (.indexFor 0x3D)

/-- Decode and encode agree: for every well-formed instruction, the decoder reads its word as the
instruction, every operand at every value (R46 to R51, R55). -/
def Obligations.DecodeOfEncodeIsTheInstruction : Prop :=
  ∀ i : Instr, i.wf = true → decode (encode i) = .ok i

/-- Every packet the decoder accepts is the word of the instruction it reads, and that instruction is
well-formed: no bit of a word is dropped, and no two words are one instruction. -/
def Obligations.EncodeOfDecodeIsThePacket : Prop :=
  ∀ (p : Packet) (i : Instr), decode p = .ok i → encode i = p ∧ i.wf = true

/-- Of the 256 character codes the decoder accepts exactly those that are not among the illegal ranges of
R54: the 64 codes with an index by R53, read as that index's symbol row, and the pad of R51. -/
def Obligations.CharacterCodesSymbolPadOrIllegal : Prop :=
  ∀ c : Byte,
    (IllegalCode c → decode (.sym c) = .error (.illegalCode c)) ∧
    (¬ IllegalCode c → c ≠ 0x3D → ∃ k i, indexClosed c = some k ∧ symbolIndex i = some k ∧
      decode (.sym c) = .ok i) ∧
    (c = 0x3D → decode (.sym c) = .ok .pad)

/-! ## The alphabet table -/

/-- R52, R71: the closed form of the forward table; it is injective and does not contain the pad. -/
def Obligations.ForwardTableIsTheAlphabet : Prop :=
  (∀ i : Sextet, fwdAt i = symbolClosed i) ∧
  (∀ i j : Sextet, i ≠ j → fwdAt i ≠ fwdAt j) ∧ ∀ i : Sextet, fwdAt i ≠ 0x3D

/-- R67: BUILD_REV runs in every state; it writes `REV` and nothing else; each `REV[FWD[i]]` is `(1, i)`,
every other entry `(0, 0)`, and exactly 64 entries are valid. Only reset selects it. -/
def Obligations.BuildRevWritesTheInverse : Prop :=
  (∀ s : State, ∃ rev : Rev, exec .buildRev s = .next { s with rev := rev } ∧
    (∀ i : Sextet, revAt rev (symbolClosed i) = { valid := true, idx := i }) ∧
    (∀ c : Byte, (∀ i : Sextet, symbolClosed i ≠ c) → revAt rev c = { valid := false, idx := 0 }) ∧
    (rev.toList.filter fun e => e.valid).length = 64) ∧
  ∀ p : Packet, decode p = .ok .buildRev ↔ p = .reset

/-- R53: the closed form of the reverse mapping after BUILD_REV. -/
def Obligations.ReverseTableHasItsClosedForm : Prop :=
  ∀ c : Byte, indexOf builtRev c = indexClosed c

/-- R68: after BUILD_REV the two lookups are exact inverses (a, b), the pad has no index (c), and no index
exactly the pad and the illegal codes (d). -/
def Obligations.LookupsAreInverse : Prop :=
  (∀ i : Sextet, indexOf builtRev (symbolOf i) = some i) ∧
  (∀ (c : Byte) (i : Sextet), indexOf builtRev c = some i → symbolOf i = c) ∧
  indexOf builtRev 0x3D = none ∧
  ∀ c : Byte, indexOf builtRev c = none ↔ c = 0x3D ∨ IllegalCode c

/-- R65: SYMBOL_FOR runs for every index in every state, answers `FWD[i]`, and changes no state of the
block. That its answer stands in `mapped` is the model's choice (log 3). -/
def Obligations.SymbolForAnswersTheForwardTable : Prop :=
  ∀ (i : Sextet) (s : State),
    exec (.symbolFor i) s = .next { s with mapped := some { code := symbolClosed i, index := some i } }

/-- R66: INDEX_FOR runs for every code in every state, answers `some REV[c].IDX` if `VALID`, else `none`,
and changes no state of the block. That its answer stands in `mapped` is the model's choice (log 3). -/
def Obligations.IndexForAnswersTheReverseTable : Prop :=
  ∀ (c : Byte) (s : State), ∃ r : Option Sextet,
    exec (.indexFor c) s = .next { s with mapped := some { code := c, index := r } } ∧
    ((revAt s.rev c).valid = true → r = some (revAt s.rev c).idx) ∧
    ((revAt s.rev c).valid = false → r = none)

/-- R50, R66: each of the 64 symbol codes runs in every state (SYMBOL_00_A to SYMBOL_63_SLASH): its code
is `FWD` at its index, the answer is that code with the index the reverse table holds for it, and no state
of the block changes. That a symbol code runs by itself is the model's choice (log 3). -/
def Obligations.SymbolCodesAnswerTheirIndex : Prop :=
  ∀ (i : Instr) (k : Sextet), symbolIndex i = some k → ∀ s : State,
    encode i = .sym (symbolClosed k) ∧
    exec i s = .next { s with
      mapped := some { code := symbolClosed k, index := indexOf s.rev (symbolClosed k) } } ∧
    (s.rev = builtRev → indexOf s.rev (symbolClosed k) = some k)

/-- R51, R12: the pad code runs in every state: its code is 0x3D, it stands for no index, and no state of
the block changes. That it runs by itself is the model's choice (log 3). -/
def Obligations.PadCodeAnswersNoIndex : Prop :=
  ∀ s : State, encode .pad = .sym 0x3D ∧
    exec .pad s = .next { s with mapped := some { code := 0x3D, index := none } }

/-! ## The group word -/

/-- R47: the group word of three bytes; its sextets as slices of it, as slices of the bytes, and by shift
and mask. -/
def Obligations.SextetsOfThreeBytes : Prop :=
  ∀ b0 b1 b2 : Byte,
    let w := groupOfBytes b0 b1 b2
    w.toNat = b0.toNat * 2 ^ 16 + b1.toNat * 2 ^ 8 + b2.toNat ∧
    sextet0 w = w.extractLsb' 18 6 ∧ sextet1 w = w.extractLsb' 12 6 ∧
    sextet2 w = w.extractLsb' 6 6 ∧ sextet3 w = w.extractLsb' 0 6 ∧
    sextet0 w = b0.extractLsb' 2 6 ∧
    sextet1 w = b0.extractLsb' 0 2 ++ b1.extractLsb' 4 4 ∧
    sextet2 w = b1.extractLsb' 0 4 ++ b2.extractLsb' 6 2 ∧
    sextet3 w = b2.extractLsb' 0 6 ∧
    sextet0 w = ((b0 >>> 2) &&& 0x3F).setWidth 6 ∧
    sextet1 w = (((b0 &&& 0x03) <<< 4) ||| ((b1 >>> 4) &&& 0x0F)).setWidth 6 ∧
    sextet2 w = (((b1 &&& 0x0F) <<< 2) ||| ((b2 >>> 6) &&& 0x03)).setWidth 6 ∧
    sextet3 w = (b2 &&& 0x3F).setWidth 6

/-- R48: the group word of four sextets; its bytes as slices of it, as slices of the sextets, and by shift
and mask; and that R47 and R48 are inverse both ways. -/
def Obligations.BytesOfFourSextetsAndBack : Prop :=
  (∀ v0 v1 v2 v3 : Sextet,
    let w := groupOfSextets v0 v1 v2 v3
    w.toNat = v0.toNat * 2 ^ 18 + v1.toNat * 2 ^ 12 + v2.toNat * 2 ^ 6 + v3.toNat ∧
    byte0 w = w.extractLsb' 16 8 ∧ byte1 w = w.extractLsb' 8 8 ∧ byte2 w = w.extractLsb' 0 8 ∧
    byte0 w = v0 ++ v1.extractLsb' 4 2 ∧
    byte1 w = v1.extractLsb' 0 4 ++ v2.extractLsb' 2 4 ∧
    byte2 w = v2.extractLsb' 0 2 ++ v3 ∧
    byte0 w = ((v0.setWidth 8 <<< 2) ||| (v1.setWidth 8 >>> 4)) ∧
    byte1 w = (((v1.setWidth 8 &&& 0x0F) <<< 4) ||| (v2.setWidth 8 >>> 2)) ∧
    byte2 w = (((v2.setWidth 8 &&& 0x03) <<< 6) ||| v3.setWidth 8) ∧
    sextet0 (groupOfBytes (byte0 w) (byte1 w) (byte2 w)) = v0 ∧
    sextet1 (groupOfBytes (byte0 w) (byte1 w) (byte2 w)) = v1 ∧
    sextet2 (groupOfBytes (byte0 w) (byte1 w) (byte2 w)) = v2 ∧
    sextet3 (groupOfBytes (byte0 w) (byte1 w) (byte2 w)) = v3) ∧
  ∀ b0 b1 b2 : Byte,
    let u := groupOfBytes b0 b1 b2
    let w := groupOfSextets (sextet0 u) (sextet1 u) (sextet2 u) (sextet3 u)
    byte0 w = b0 ∧ byte1 w = b1 ∧ byte2 w = b2

/-! ## The encoder's steps -/

/-- R81: ENC3 writes the four symbols of the group word `b0 ++ b1 ++ b2` and moves the pointers by 3 and
4; the sequencer runs it when three or more bytes are left. -/
def Obligations.Enc3EncodesThreeBytes : Prop :=
  ∀ (b0 b1 b2 : Byte) (s : State), fits s.cfg.capOut (s.optr + 4) = true →
    let w : GroupWord := b0 ++ b1 ++ b2
    let after : State → State := fun u =>
      { u with
        acc := w
        v0 := w.extractLsb' 18 6, v1 := w.extractLsb' 12 6
        v2 := w.extractLsb' 6 6, v3 := w.extractLsb' 0 6
        outBuf := Memory.writeSeq u.outBuf u.optr
          [symbolClosed (w.extractLsb' 18 6), symbolClosed (w.extractLsb' 12 6),
           symbolClosed (w.extractLsb' 6 6), symbolClosed (w.extractLsb' 0 6)]
        iptr := u.iptr + 3, optr := u.optr + 4 }
    exec (.enc3 b0 b1 b2) s = .next (after s) ∧
    (s.hostQuiet = true → s.st = .busy → s.phase = .pEnc → s.iptr + 3 ≤ s.inLen →
      fits s.cfg.capIn s.inLen = true →
      Memory.readSeq s.inBuf s.iptr 3 = some [b0, b1, b2] → step s = .next (after s.pop))

/-- R82: ENC2 treats the missing third byte as 0 and writes three symbols and the pad; the sequencer runs
it when exactly two bytes are left. -/
def Obligations.Enc2EncodesTwoBytes : Prop :=
  ∀ (b0 b1 : Byte) (s : State), fits s.cfg.capOut (s.optr + 4) = true →
    let w : GroupWord := b0 ++ b1 ++ (0x00 : Byte)
    let after : State → State := fun u =>
      { u with
        acc := w
        v0 := w.extractLsb' 18 6, v1 := w.extractLsb' 12 6, v2 := w.extractLsb' 6 6, v3 := 0
        outBuf := Memory.writeSeq u.outBuf u.optr
          [symbolClosed (w.extractLsb' 18 6), symbolClosed (w.extractLsb' 12 6),
           symbolClosed (w.extractLsb' 6 6), 0x3D]
        iptr := u.iptr + 2, optr := u.optr + 4 }
    exec (.enc2 b0 b1) s = .next (after s) ∧
    (s.hostQuiet = true → s.st = .busy → s.phase = .pEnc → s.iptr + 2 = s.inLen →
      fits s.cfg.capIn s.inLen = true →
      Memory.readSeq s.inBuf s.iptr 2 = some [b0, b1] → step s = .next (after s.pop))

/-- R83: ENC1 treats the two missing bytes as 0 and writes two symbols and two pads; the sequencer runs it
when exactly one byte is left. -/
def Obligations.Enc1EncodesOneByte : Prop :=
  ∀ (b0 : Byte) (s : State), fits s.cfg.capOut (s.optr + 4) = true →
    let w : GroupWord := b0 ++ (0x00 : Byte) ++ (0x00 : Byte)
    let after : State → State := fun u =>
      { u with
        acc := w
        v0 := w.extractLsb' 18 6, v1 := w.extractLsb' 12 6, v2 := 0, v3 := 0
        outBuf := Memory.writeSeq u.outBuf u.optr
          [symbolClosed (w.extractLsb' 18 6), symbolClosed (w.extractLsb' 12 6), 0x3D, 0x3D]
        iptr := u.iptr + 1, optr := u.optr + 4 }
    exec (.enc1 b0) s = .next (after s) ∧
    (s.hostQuiet = true → s.st = .busy → s.phase = .pEnc → s.iptr + 1 = s.inLen →
      fits s.cfg.capIn s.inLen = true →
      Memory.read s.inBuf s.iptr = some b0 → step s = .next (after s.pop))

/-! ## The decoder's checks -/

/-- R101, R146: CHKLEN raises InvalidLength (position 0) when `IN_LEN mod 4` is not 0, else goes to
CHKPAD; it reads no element of `IN` and changes nothing else. -/
def Obligations.ChkLenTestsTheLength : Prop :=
  ∀ s : State,
    (s.inLen % 4 ≠ 0 → exec .chkLen s =
      .next { s with err := .invalidLength, errPos := 0, outLen := 0, st := .done }) ∧
    (s.inLen % 4 = 0 → exec .chkLen s = .next { s with phase := .pChkPad }) ∧
    (s.hostQuiet = true → s.st = .busy → s.phase = .pChkLen → step s = exec .chkLen s.pop)

/-- R102, R147, R151: CHKPAD runs over every written text, raises InvalidPadding at the least misplaced pad,
and if there is none sets `NPAD` to the number of pads at the end (0 for the empty text) and goes to
CHKCHR. -/
def Obligations.ChkPadTestsThePads : Prop :=
  ∀ (text : List Byte) (s : State), s.HasInput text →
    (∀ i, Least (MisplacedPad text) i → exec .chkPad s =
      .next { s with err := .invalidPadding, errPos := i, outLen := 0, st := .done }) ∧
    ((∀ i, ¬ MisplacedPad text i) → ∃ n : Nat,
      exec .chkPad s = .next { s with npad := BitVec.ofNat 2 n, phase := .pChkChr } ∧ n ≤ 2 ∧
      n ≤ text.length ∧ ∀ i, i < text.length → (text[i]? = some 0x3D ↔ text.length ≤ i + n)) ∧
    (s.hostQuiet = true → s.st = .busy → s.phase = .pChkPad → step s = exec .chkPad s.pop)

/-- R103, R148, R151: CHKCHR raises InvalidCharacter at the least character that is no pad and has no
index; if there is none it goes to the group steps with both pointers 0. -/
def Obligations.ChkChrTestsTheCharacters : Prop :=
  ∀ (text : List Byte) (s : State), s.HasInput text →
    (∀ i, Least (UnresolvedChar s.rev text) i → exec .chkChr s =
      .next { s with err := .invalidCharacter, errPos := i, outLen := 0, st := .done }) ∧
    ((∀ i, ¬ UnresolvedChar s.rev text i) →
      exec .chkChr s = .next { s with phase := .pDec, iptr := 0, optr := 0 }) ∧
    (s.hostQuiet = true → s.st = .busy → s.phase = .pChkChr → step s = exec .chkChr s.pop)

/-! ## The decoder's group steps -/

/-- R104: DEC4 writes the three bytes of the group word `V0 ++ V1 ++ V2 ++ V3` and moves the pointers by 4
and 3; the sequencer runs it on a group that does not end in a pad. -/
def Obligations.Dec4DecodesAFullGroup : Prop :=
  ∀ (c0 c1 c2 c3 : Byte) (s : State), fits s.cfg.capOut (s.optr + 3) = true →
    let w : GroupWord := (revAt s.rev c0).idx ++ (revAt s.rev c1).idx ++ (revAt s.rev c2).idx ++
      (revAt s.rev c3).idx
    let after : State → State := fun u =>
      { u with
        v0 := (revAt s.rev c0).idx, v1 := (revAt s.rev c1).idx
        v2 := (revAt s.rev c2).idx, v3 := (revAt s.rev c3).idx
        acc := w
        outBuf := Memory.writeSeq u.outBuf u.optr
          [w.extractLsb' 16 8, w.extractLsb' 8 8, w.extractLsb' 0 8]
        iptr := u.iptr + 4, optr := u.optr + 3 }
    exec (.dec4 c0 c1 c2 c3) s = .next (after s) ∧
    (s.hostQuiet = true → s.st = .busy → s.phase = .pDec → s.iptr < s.inLen →
      fits s.cfg.capIn (s.iptr + 4) = true →
      Memory.readSeq s.inBuf s.iptr 4 = some [c0, c1, c2, c3] → c3 ≠ 0x3D →
      step s = .next (after s.pop))

/-- R105: DEC3 does not look the pad up, takes `V3 = 0`, and writes two bytes; the sequencer runs it on a
group that ends in exactly one pad. -/
def Obligations.Dec3DecodesAGroupWithOnePad : Prop :=
  ∀ (c0 c1 c2 : Byte) (s : State), fits s.cfg.capOut (s.optr + 2) = true →
    let w : GroupWord := (revAt s.rev c0).idx ++ (revAt s.rev c1).idx ++ (revAt s.rev c2).idx ++
      (0 : Sextet)
    let after : State → State := fun u =>
      { u with
        v0 := (revAt s.rev c0).idx, v1 := (revAt s.rev c1).idx, v2 := (revAt s.rev c2).idx, v3 := 0
        acc := w
        outBuf := Memory.writeSeq u.outBuf u.optr [w.extractLsb' 16 8, w.extractLsb' 8 8]
        iptr := u.iptr + 4, optr := u.optr + 2 }
    exec (.dec3 c0 c1 c2) s = .next (after s) ∧
    (s.hostQuiet = true → s.st = .busy → s.phase = .pDec → s.iptr < s.inLen →
      fits s.cfg.capIn (s.iptr + 4) = true →
      Memory.readSeq s.inBuf s.iptr 4 = some [c0, c1, c2, 0x3D] → c2 ≠ 0x3D →
      step s = .next (after s.pop))

/-- R106: DEC2 looks up two characters, takes `V2 = V3 = 0`, and writes one byte; the sequencer runs it on
a group that ends in two pads. -/
def Obligations.Dec2DecodesAGroupWithTwoPads : Prop :=
  ∀ (c0 c1 : Byte) (s : State), fits s.cfg.capOut (s.optr + 1) = true →
    let w : GroupWord := (revAt s.rev c0).idx ++ (revAt s.rev c1).idx ++ (0 : Sextet) ++ (0 : Sextet)
    let after : State → State := fun u =>
      { u with
        v0 := (revAt s.rev c0).idx, v1 := (revAt s.rev c1).idx, v2 := 0, v3 := 0
        acc := w
        outBuf := Memory.writeSeq u.outBuf u.optr [w.extractLsb' 16 8]
        iptr := u.iptr + 4, optr := u.optr + 1 }
    exec (.dec2 c0 c1) s = .next (after s) ∧
    (s.hostQuiet = true → s.st = .busy → s.phase = .pDec → s.iptr < s.inLen →
      fits s.cfg.capIn (s.iptr + 4) = true →
      Memory.readSeq s.inBuf s.iptr 4 = some [c0, c1, 0x3D, 0x3D] → step s = .next (after s.pop))

/-! ## The end of an operation -/

/-- R84, R107: ENC_FIN and DEC_FIN write `OUT_LEN <- OPTR` and `ST <- DONE`, nothing else; the sequencer
runs the one of the phase when `IPTR = IN_LEN`. -/
def Obligations.FinalStepsEndTheOperation : Prop :=
  ∀ s : State,
    exec .encFin s = .next { s with outLen := s.optr, st := .done } ∧
    exec .decFin s = .next { s with outLen := s.optr, st := .done } ∧
    (s.hostQuiet = true → s.st = .busy → s.phase = .pEnc ∨ s.phase = .pDec → s.iptr = s.inLen →
      step s = .next { s.pop with outLen := s.optr, st := .done })

/-! ## Where the steps stop -/

/-- R20, R30, R44: where the sequencer's steps stop. A group step whose output does not fit below `CAP_OUT`:
there is no such element (log 15). CHKPAD and CHKCHR over an input, and the fetch of a group, with an
element the host has never written: at the first such element, rather than pick a value (log 4). -/
def Obligations.StepsStopRatherThanPick : Prop :=
  (∀ (i : Instr) (s : State), storedCount i ≠ 0 →
    fits s.cfg.capOut (s.optr + storedCount i) = false →
    exec i s = .fault (.noSuchAddress .outSpace (s.optr + storedCount i - 1))) ∧
  (∀ (i : Instr) (s : State) (a : Nat), i = .chkPad ∨ i = .chkChr →
    fits s.cfg.capIn s.inLen = true → a < s.inLen → Memory.read s.inBuf a = none →
    (∀ b, b < a → Memory.read s.inBuf b ≠ none) → exec i s = .fault (.unwrittenRead a)) ∧
  ∀ (s : State) (a : Nat), s.hostQuiet = true → s.st = .busy → s.iptr ≤ a →
    Memory.read s.inBuf a = none → (∀ b, s.iptr ≤ b → b < a → Memory.read s.inBuf b ≠ none) →
    (s.phase = .pEnc → fits s.cfg.capIn s.inLen = true → a < s.iptr + min 3 (s.inLen - s.iptr) →
      step s = .fault (.unwrittenRead a)) ∧
    (s.phase = .pDec → s.iptr < s.inLen → fits s.cfg.capIn (s.iptr + 4) = true → a < s.iptr + 4 →
      step s = .fault (.unwrittenRead a))

/-! ## Frames of memory -/

/-- R36, R37, R24: a step of the sequencer (ENC3, ENC2, ENC1, ENC_FIN, CHKLEN, CHKPAD, CHKCHR, DEC4, DEC3,
DEC2, DEC_FIN) or a table operation that answers a next state leaves every element of `IN` and every
element of `OUT` outside `OPTR .. OPTR + n - 1` as it was, `n` the number of elements it emits (none but
for the group steps); it never writes `OP`, `IN_LEN` or the capacities; and only BUILD_REV writes `REV`. -/
def Obligations.StepsChangeOnlyTheStoredElements : Prop :=
  ∀ (i : Instr) (s t : State), isStep i = true → exec i s = .next t →
    (∀ a, Memory.read t.inBuf a = Memory.read s.inBuf a) ∧
    (∀ a, a < s.optr ∨ s.optr + storedCount i ≤ a →
      Memory.read t.outBuf a = Memory.read s.outBuf a) ∧
    (∀ a, s.optr ≤ a → a < s.optr + storedCount i → ∃ v, Memory.read t.outBuf a = some v) ∧
    t.op = s.op ∧ t.inLen = s.inLen ∧ t.cfg = s.cfg ∧ t.pending = s.pending ∧
    (i ≠ .buildRev → t.rev = s.rev)

/-- R80, R100, R113, R130: START stores nothing; ENCODE and DECODE that answer a next state store to `OUT`
exactly the elements from 0 below the new `OUT_LEN`; none of them changes `IN`, `OP`, `IN_LEN`, `REV` or
the capacities. -/
def Obligations.OperationsStoreOnlyTheirOutput : Prop :=
  ∀ (i : Instr) (s t : State), i = .start ∨ i = .encode ∨ i = .decode → s.st ≠ .busy →
    exec i s = .next t →
    (∀ a, Memory.read t.inBuf a = Memory.read s.inBuf a) ∧
    (∀ a, t.outLen ≤ a → Memory.read t.outBuf a = Memory.read s.outBuf a) ∧
    (∀ a, a < t.outLen → ∃ v, Memory.read t.outBuf a = some v) ∧
    t.op = s.op ∧ t.inLen = s.inLen ∧ t.cfg = s.cfg ∧ t.rev = s.rev ∧ t.pending = s.pending

/-! ## Laws of the two functions -/

/-- R86: the output length law. -/
def Obligations.EncodedLengthIsFourPerGroup : Prop :=
  ∀ input : List Byte,
    (encodeBytes input).length = 4 * ((input.length + 2) / 3) ∧
    (encodeBytes input).length % 4 = 0 ∧ (encodeBytes input = [] ↔ input = [])

/-- R87: 0, 2 or 1 pads by the length modulo 3, and they are the last characters of the text. -/
def Obligations.EncodedPadsStandAtTheEnd : Prop :=
  ∀ input : List Byte, ∃ n : Nat,
    n = (if input.length % 3 = 1 then 2 else if input.length % 3 = 2 then 1 else 0) ∧
    ∀ i, i < (encodeBytes input).length →
      ((encodeBytes input)[i]? = some 0x3D ↔ (encodeBytes input).length ≤ i + n)

/-- R88: every character of an encoded text is the pad or `FWD[i]` for some `i`; none is illegal. -/
def Obligations.EncodedTextStaysInTheAlphabet : Prop :=
  ∀ (input : List Byte) (c : Byte), c ∈ encodeBytes input →
    (c = 0x3D ∨ ∃ i : Sextet, c = symbolClosed i) ∧ ¬ IllegalCode c

/-- R91: the concatenation law, and where it fails. -/
def Obligations.EncodeOfAConcatenation : Prop :=
  ∀ first second : List Byte,
    (first.length % 3 = 0 →
      encodeBytes (first ++ second) = encodeBytes first ++ encodeBytes second) ∧
    (first.length % 3 ≠ 0 → second ≠ [] →
      encodeBytes (first ++ second) ≠ encodeBytes first ++ encodeBytes second)

/-- R111, R92: the round trip, for every byte sequence; and so `encode` is injective. -/
def Obligations.DecodeOfEncodeIsTheInput : Prop :=
  (∀ input : List Byte, decodeText builtRev (encodeBytes input) = .ok input) ∧
  ∀ first second : List Byte, encodeBytes first = encodeBytes second → first = second

/-- R109: in a group with one pad the low 2 bits of `V2`, with two pads the low 4 bits of `V1`, neither
reach the output nor fail a check: two texts that differ only in a symbol there, with the same index but for
those bits, decode alike. -/
def Obligations.DiscardedBitsDoNotMatter : Prop :=
  ∀ (front : List Byte) (c0 c1 c d : Byte) (k l : Sextet),
    indexOf builtRev c = some k → indexOf builtRev d = some l →
    (k.toNat / 4 = l.toNat / 4 →
      decodeText builtRev (front ++ [c0, c1, c, 0x3D]) =
        decodeText builtRev (front ++ [c0, c1, d, 0x3D])) ∧
    (k.toNat / 16 = l.toNat / 16 →
      decodeText builtRev (front ++ [c0, c, 0x3D, 0x3D]) =
        decodeText builtRev (front ++ [c0, d, 0x3D, 0x3D]))

/-- R110, R116: a successful decode gives `3 * (n / 4) - NPAD` bytes, and every character of its text is
one of the 65 legal codes. -/
def Obligations.SuccessfulDecodeLengthAndAlphabet : Prop :=
  ∀ (text bytes : List Byte), decodeText builtRev text = .ok bytes →
    bytes.length = 3 * (text.length / 4) - trailingPads text ∧
    ∀ c ∈ text, c = 0x3D ∨ ∃ i : Sextet, c = symbolClosed i

/-- R112: if a text decodes, encoding the result gives the text back exactly when its discarded bits are
zero: the last symbol before one pad has an index that is a multiple of 4, before two pads of 16. -/
def Obligations.EncodeOfDecodeIsTheCanonicalText : Prop :=
  ∀ (text bytes : List Byte), decodeText builtRev text = .ok bytes →
    (encodeBytes bytes = text ↔
      ∀ c k, text[text.length - trailingPads text - 1]? = some c → indexOf builtRev c = some k →
        (trailingPads text = 1 → k.toNat % 4 = 0) ∧ (trailingPads text = 2 → k.toNat % 16 = 0))

/-- R149, R146, R147, R148, R151: the kind of the error is that of the first check that fails, over the
whole text, and the position the least offending index of that check; the text decodes exactly when no
check fails. -/
def Obligations.ErrorsByCheckOrder : Prop :=
  ∀ (rev : Rev) (text : List Byte),
    (text.length % 4 ≠ 0 → decodeText rev text = .error { kind := .invalidLength, pos := 0 }) ∧
    (∀ i, text.length % 4 = 0 → Least (MisplacedPad text) i →
      decodeText rev text = .error { kind := .invalidPadding, pos := i }) ∧
    (∀ i, text.length % 4 = 0 → (∀ j, ¬ MisplacedPad text j) → Least (UnresolvedChar rev text) i →
      decodeText rev text = .error { kind := .invalidCharacter, pos := i }) ∧
    (text.length % 4 = 0 → (∀ j, ¬ MisplacedPad text j) → (∀ j, ¬ UnresolvedChar rev text j) →
      ∃ bytes, decodeText rev text = .ok bytes)

/-! ## The operations -/

/-- R130, R133, R6, R44: START from `IDLE` or `DONE` over a written input within the capacities clears the
last result, sets the pointers and the first phase of `OP`, and makes the block `BUSY`, changing nothing
else of the block; while `BUSY` it has no effect. That it counts the operations in `starts` is the model's
own (log 6). -/
def Obligations.StartBeginsAnOperation : Prop :=
  (∀ (input : List Byte) (s : State), s.st ≠ .busy → s.HasInput input →
    fits s.cfg.capOut (resultLength s.rev s.op input) = true →
    exec .start s = .next { s with
      err := .none, errPos := 0, outLen := 0, iptr := 0, optr := 0, npad := 0
      phase := if s.op = 0 then .pEnc else .pChkLen
      st := .busy, starts := s.starts + 1 }) ∧
  ∀ s : State, s.st = .busy → exec .start s = .next s

/-- R6, R44, R159: a START outside the spec is refused: over `CAP_IN`, over `CAP_OUT`, or of an operation
that reads an element the host has not written (by R36: an ENCODE, or a DECODE with `IN_LEN mod 4 = 0`). -/
def Obligations.StartOutsideTheSpecIsRefused : Prop :=
  ∀ s : State, s.st ≠ .busy →
    (fits s.cfg.capIn s.inLen = false → exec .start s = .refused .overCapacity) ∧
    (fits s.cfg.capIn s.inLen = true → s.op = 0 ∨ s.inLen % 4 = 0 →
      ∀ a, a < s.inLen → Memory.read s.inBuf a = none →
      exec .start s = .refused .unwrittenInput) ∧
    ∀ input, s.HasInput input → fits s.cfg.capOut (resultLength s.rev s.op input) = false →
      exec .start s = .refused .overCapacity

/-- R80, R156: ENCODE on any input the host has written: the result of `encode`, `ERR = NONE`, `ST = DONE`;
and it raises nothing. While `BUSY` it has no effect (R133). -/
def Obligations.EncodeCompletesOnEveryInput : Prop :=
  (∀ (input : List Byte) (s : State), s.st ≠ .busy → s.HasInput input →
    fits s.cfg.capOut (4 * ((input.length + 2) / 3)) = true →
    ∃ t, exec .encode s = .next t ∧ t.st = .done ∧
      t.result = { err := .none, errPos := 0, outLen := 4 * ((input.length + 2) / 3)
                   output := some (encodeBytes input) }) ∧
  ∀ s : State, s.st = .busy → exec .encode s = .next s

/-- R100, R151, R113: DECODE on any text the host has written: the bytes of `decode`, or the error with
its position, no output and `OUT` unchanged; `ST = DONE`. While `BUSY` it has no effect (R133). -/
def Obligations.DecodeCompletesOnEveryText : Prop :=
  (∀ (text : List Byte) (s : State), s.st ≠ .busy → s.HasInput text →
    fits s.cfg.capOut (resultLength s.rev 1 text) = true →
    ∃ t, exec .decode s = .next t ∧ t.st = .done ∧ t.result = decodeResult s.rev text ∧
      (t.err ≠ .none → t.outLen = 0 ∧ t.outBuf = s.outBuf)) ∧
  ∀ s : State, s.st = .busy → exec .decode s = .next s

/-- R24: the result of an operation is a function of the input and of nothing else: two blocks with the
same tables and the same input end with the same result, whatever else they hold. -/
def Obligations.ResultDependsOnTheInputOnly : Prop :=
  ∀ (input : List Byte) (i : Instr) (s s' t t' : State), i = .encode ∨ i = .decode →
    s.st ≠ .busy → s'.st ≠ .busy → s.rev = s'.rev → s.HasInput input → s'.HasInput input →
    exec i s = .next t → exec i s' = .next t' → t.result = t'.result

/-! ## The step -/

/-- R132: when the packet of the next step decodes to an instruction, the step is `exec` of it at the
state without the event that asked for it; at reset the registers are written after BUILD_REV
(R171). The event list is the model's (log 1). -/
def Obligations.StepRunsTheDecodedInstruction : Prop :=
  ∀ (s : State) (p : Packet) (i : Instr), s.activity = .run p → decode p = .ok i →
    (p ≠ .reset → step s = exec i s.pop) ∧
    (p = .reset → step s = .next (State.resetRegs { s.pop with rev := builtRev }))

/-- R60, R132: which packet the sequencer selects in each phase of a `BUSY` block. -/
def Obligations.SequencerSelectsByPhase : Prop :=
  ∀ s : State, s.hostQuiet = true → s.st = .busy →
    (s.phase = .pChkLen → s.activity = .run (.step .chkLen)) ∧
    (s.phase = .pChkPad → s.activity = .run (.step .chkPad)) ∧
    (s.phase = .pChkChr → s.activity = .run (.step .chkChr)) ∧
    (s.phase = .pEnc → s.iptr = s.inLen → s.activity = .run (.step .encFin)) ∧
    (s.phase = .pDec → s.iptr = s.inLen → s.activity = .run (.step .decFin)) ∧
    (∀ run : List Byte, s.phase = .pEnc → s.iptr < s.inLen → fits s.cfg.capIn s.inLen = true →
      run.length = min 3 (s.inLen - s.iptr) →
      Memory.readSeq s.inBuf s.iptr run.length = some run →
      s.activity = .run (.g24 run.length (groupOfRun run))) ∧
    (∀ c0 c1 c2 c3 : Byte, s.phase = .pDec → s.iptr < s.inLen →
      fits s.cfg.capIn (s.iptr + 4) = true →
      Memory.readSeq s.inBuf s.iptr 4 = some [c0, c1, c2, c3] →
      s.activity = .run (.c32 (wordOfChars c0 c1 c2 c3)))

/-- R132, R130, R170: what a host action at the head of the list selects: START its command, `call` the
command code in `OP`, reset BUILD_REV; the three table accesses their own operand words. The list, `call`
and the table accesses are the model's (logs 1, 2, 3). -/
def Obligations.EventsSelectTheirInstruction : Prop :=
  ∀ (s : State) (e : Event) (rest : List Event), s.pending = e :: rest →
    (e = .start → s.activity = .run .hostcmd ∧ decode .hostcmd = .ok .start) ∧
    (e = .call → s.op = 0 → s.activity = .run (.cmd 0) ∧ decode (.cmd 0) = .ok .encode) ∧
    (e = .call → s.op = 1 → s.activity = .run (.cmd 1) ∧ decode (.cmd 1) = .ok .decode) ∧
    (e = .reset → s.activity = .run .reset ∧ decode .reset = .ok .buildRev) ∧
    (∀ i, e = .symbolFor i → s.activity = .run (.index i)) ∧
    (∀ c, e = .indexFor c → s.activity = .run (.code c)) ∧
    (∀ c, e = .character c → s.activity = .run (.sym c)) ∧
    (e ≠ .waitDone → s.pop = { s with pending := rest }) ∧
    (e = .waitDone → s.st = .done → s.pop = { s with pending := rest }) ∧
    (e = .waitDone → s.st ≠ .done → s.pop = s)

/-- The word of a table row put before the machine is the one the next step runs, in every state of an
instance with unbounded `IN` (the model's `withFetchWord`, log 17). -/
def Obligations.GivenTableWordIsRunNext : Prop :=
  ∀ (s : State) (nbits w : Nat) (i : Instr), s.cfg.capIn = none →
    decodeTableWord nbits w = some i →
    ∃ p, (s.withFetchWord nbits w).activity = .run p ∧ decode p = .ok i ∧
      step (s.withFetchWord nbits w) = exec i (s.withFetchWord nbits w).pop

/-- R132 last row, R134, R162: in `IDLE` and `DONE`, with the host silent or waiting, a step changes
nothing but the host's list. -/
def Obligations.SequencerRestsOutsideBusy : Prop :=
  ∀ s : State, s.hostQuiet = true → s.st ≠ .busy → step s = .next s.pop ∧
    { s.pop with pending := s.pending } = s

/-- R41, R70, R10: no step but reset writes `REV`; no step changes the capacities; and a step that is
neither a host write nor reset leaves `IN`, `OP` and `IN_LEN` as they were (R37 "No operation writes
IN"). -/
def Obligations.TablesAndInputAreReadOnly : Prop :=
  ∀ s t : State, step s = .next t →
    t.cfg = s.cfg ∧
    (s.pending.head? ≠ some .reset → t.rev = s.rev) ∧
    (s.pending.head? ≠ some .reset → (∀ a v, s.pending.head? ≠ some (.writeIn a v)) →
      t.inBuf = s.inBuf) ∧
    (s.pending.head? ≠ some .reset → (∀ v, s.pending.head? ≠ some (.writeOp v)) → t.op = s.op) ∧
    (s.pending.head? ≠ some .reset → (∀ n, s.pending.head? ≠ some (.writeInLen n)) →
      t.inLen = s.inLen)

/-! ## Runs -/

/-- R90, R85, R179: from a START with `OP = 0` and the host silent, the block is `BUSY` after START and
each of the first `ceil(n/3)` steps, and after one more it is `DONE` with the result of `encode`; it then
differs from the whole operation ENCODE, one step by the model's choice (log 2), at most in `ACC` and
`V0..V3` (log 14). -/
def Obligations.EncodeRunAgreesWithTheFunction : Prop :=
  ∀ (input : List Byte) (s : State), s.pending = [.start] → s.st ≠ .busy → s.op = 0 →
    s.HasInput input → fits s.cfg.capOut (4 * ((input.length + 2) / 3)) = true →
    (∀ k, k ≤ (input.length + 2) / 3 → ∃ t, runSteps (k + 1) s = .next t ∧ t.st = .busy) ∧
    ∃ t u, runSteps ((input.length + 2) / 3 + 2) s = .next t ∧ t.st = .done ∧
      t.result = encodeResult input ∧
      exec .encode s.pop = .next u ∧ t.withoutGroup = u.withoutGroup

/-- R114, R108, R179, R151: from a START with `OP = 1` and the host silent, the block is `DONE` after
exactly 1, 2 or 3 steps (an error of check 1, 2, 3) or `n/4 + 4` steps (success), with the result of
`decode`; it then differs from the whole operation DECODE, one step by the model's choice (log 2), at most
in `ACC` and `V0..V3` (log 14). -/
def Obligations.DecodeRunAgreesWithTheFunction : Prop :=
  ∀ (text : List Byte) (s : State), s.pending = [.start] → s.st ≠ .busy → s.op = 1 →
    s.HasInput text → fits s.cfg.capOut (resultLength s.rev 1 text) = true →
    (∀ k, k < decodeSteps s.rev text → ∃ t, runSteps (k + 1) s = .next t ∧ t.st = .busy) ∧
    ∃ t u, runSteps (decodeSteps s.rev text + 1) s = .next t ∧ t.st = .done ∧
      t.result = decodeResult s.rev text ∧
      exec .decode s.pop = .next u ∧ t.withoutGroup = u.withoutGroup

/-! ## The invariant -/

/-- The state after reset meets the invariant. -/
def Obligations.ResetMeetsTheInvariant : Prop := Inv State.reset

/-- Every step keeps the invariant, from every state that meets it, whatever the host does next. -/
def Obligations.EveryStepKeepsTheInvariant : Prop :=
  ∀ s t : State, Inv s → step s = .next t → Inv t

/-- R132, R179: in a state that meets the invariant the sequencer's step always answers a next state: no
operation in progress faults, is refused or has no step. -/
def Obligations.SequencerNeverStops : Prop :=
  ∀ s : State, Inv s → s.hostQuiet = true → ∃ t, step s = .next t

/-- 42_decoder.md section 3, R108: in a state that meets the invariant a group step of the decoder only
looks up symbols, and choosing it by the group's shape is choosing it by "last group and `NPAD`". -/
def Obligations.GroupStepsLookUpOnlySymbols : Prop :=
  ∀ (s : State) (p : Packet) (i : Instr), Inv s → s.hostQuiet = true → s.st = .busy →
    s.phase = .pDec → s.iptr < s.inLen → s.activity = .run p → decode p = .ok i →
    i.onSymbols = true ∧
    ((∃ c0 c1 c2 c3, i = .dec4 c0 c1 c2 c3) ↔ s.iptr + 4 < s.inLen ∨ s.npad = 0) ∧
    ((∃ c0 c1 c2, i = .dec3 c0 c1 c2) ↔ s.iptr + 4 = s.inLen ∧ s.npad = 1) ∧
    ((∃ c0 c1, i = .dec2 c0 c1) ↔ s.iptr + 4 = s.inLen ∧ s.npad = 2)

/-! ## Reset, status, host accesses -/

/-- R25, R170: the values reset gives; `REV` by R53's closed form, with `IDX` 0 where `VALID` is 0 (R13). -/
def Obligations.ResetStateHasTheSpecsValues : Prop :=
  let s := State.reset
  (∀ c : Byte, indexOf s.rev c = indexClosed c) ∧
  (∀ c : Byte, (revAt s.rev c).valid = false → (revAt s.rev c).idx = 0) ∧
  s.op = 0 ∧ s.inLen = 0 ∧ s.outLen = 0 ∧ s.st = .idle ∧ s.err = .none ∧ s.errPos = 0 ∧
  s.iptr = 0 ∧ s.optr = 0 ∧ s.npad = 0 ∧ s.acc = 0 ∧ s.v0 = 0 ∧ s.v1 = 0 ∧ s.v2 = 0 ∧ s.v3 = 0

/-- R170, R173, R171: reset, from any state and so also while `BUSY`, leaves `REV` built and every register
at its reset value, records no error, and leaves no defined value in `IN` or `OUT` (that they then hold no
value is the model's rendering of "unspecified", log 20); the capacities stay. -/
def Obligations.ResetActsFromEveryState : Prop :=
  ∀ (s : State) (rest : List Event), s.pending = .reset :: rest →
    ∃ t, step s = .next t ∧
      t.rev = builtRev ∧ t.op = 0 ∧ t.inLen = 0 ∧ t.outLen = 0 ∧ t.st = .idle ∧ t.err = .none ∧
      t.errPos = 0 ∧ t.iptr = 0 ∧ t.optr = 0 ∧ t.npad = 0 ∧ t.acc = 0 ∧
      t.v0 = 0 ∧ t.v1 = 0 ∧ t.v2 = 0 ∧ t.v3 = 0 ∧ t.inBuf = [] ∧ t.outBuf = [] ∧
      t.cfg = s.cfg ∧ t.pending = rest

/-- R17: the status word: `ST` in bits 1:0 (0, 1, 2), `ERR` in bits 3:2 (0 to 3), bits 7:4 zero. -/
def Obligations.StatusWordLayout : Prop :=
  ∀ s : State,
    (s.st = .idle → s.statusWord.toNat % 4 = 0) ∧
    (s.st = .busy → s.statusWord.toNat % 4 = 1) ∧
    (s.st = .done → s.statusWord.toNat % 4 = 2) ∧
    (s.err = .none → s.statusWord.toNat / 4 = 0) ∧
    (s.err = .invalidLength → s.statusWord.toNat / 4 = 1) ∧
    (s.err = .invalidPadding → s.statusWord.toNat / 4 = 2) ∧
    (s.err = .invalidCharacter → s.statusWord.toNat / 4 = 3)

/-- R26, R131, R20, C9: what each host read delivers, and that it changes nothing but what the host has
read (the model's own `readData`, log 18). -/
def Obligations.HostReadsDeliverTheRegisters : Prop :=
  ∀ (s : State) (e : Event) (rest : List Event), s.pending = e :: rest →
    let seen : HostValue → State := fun v => { s with pending := rest, readData := some v }
    (e = .readStatus → step s = .next (seen (.word s.statusWord))) ∧
    (e = .readDone → step s = .next (seen (.bit (decide (s.st = .done))))) ∧
    (e = .readOp → step s = .next (seen (.bit (decide (s.op = 1))))) ∧
    (e = .readInLen → step s = .next (seen (.number s.inLen))) ∧
    (e = .readErrPos → step s = .next (seen (.number (if s.st = .busy then 0 else s.errPos)))) ∧
    (e = .readOutLen → step s = .next (seen (.number (if s.st = .busy then 0 else s.outLen)))) ∧
    (∀ a v, e = .readIn a → fits s.cfg.capIn (a + 1) = true → Memory.read s.inBuf a = some v →
      step s = .next (seen (.word v))) ∧
    (∀ a v, e = .readOut a → fits s.cfg.capOut (a + 1) = true → s.st = .done → a < s.outLen →
      Memory.read s.outBuf a = some v → step s = .next (seen (.word v)))

/-- R20, R25, R26, R35, R176: a host read of `OUT` before `DONE`, or at or above `OUT_LEN`, and of an element
of `IN` never written, runs and delivers a free value; nothing of the block changes. Which value it is rests
on nothing (log 6). A read of any element that exists, of either buffer, written or not, delivers the same
byte again when it is repeated. -/
def Obligations.UnspecifiedElementsReadAsAFreeValue : Prop :=
  ∀ (s : State) (a : Nat) (rest : List Event),
    (s.pending = .readOut a :: rest → fits s.cfg.capOut (a + 1) = true → s.st ≠ .done ∨ s.outLen ≤ a →
      step s = .next { s with
        pending := rest
        readData := some (.word (Config.freeOut s.resets s.starts s.optr a)) }) ∧
    (s.pending = .readIn a :: rest → fits s.cfg.capIn (a + 1) = true → Memory.read s.inBuf a = none →
      step s = .next { s with pending := rest, readData := some (.word (Config.freeIn s.resets a)) }) ∧
    ∀ e : Event, s.pending = e :: e :: rest →
      (e = .readIn a ∧ fits s.cfg.capIn (a + 1) = true) ∨
        (e = .readOut a ∧ fits s.cfg.capOut (a + 1) = true) →
      ∃ v : Byte,
        step s = .next { s with pending := e :: rest, readData := some (.word v) } ∧
        runSteps 2 s = .next { s with pending := rest, readData := some (.word v) }

/-- R26, R14, R15, R19, R174: outside `BUSY` the host's writes of `OP`, `IN_LEN` and one element of `IN`
take effect and change nothing else; while `BUSY` they are refused. -/
def Obligations.HostWritesOutsideBusyOnly : Prop :=
  ∀ (s : State) (e : Event) (rest : List Event), s.pending = e :: rest →
    (∀ v, e = .writeOp v → s.st ≠ .busy → step s = .next { s with pending := rest, op := v }) ∧
    (∀ n, e = .writeInLen n → s.st ≠ .busy →
      step s = .next { s with pending := rest, inLen := n }) ∧
    (∀ a v, e = .writeIn a v → s.st ≠ .busy → fits s.cfg.capIn (a + 1) = true →
      ∃ m, step s = .next { s with pending := rest, inBuf := m } ∧ Memory.read m a = some v ∧
        ∀ b, b ≠ a → Memory.read m b = Memory.read s.inBuf b) ∧
    (s.st = .busy → (∃ v, e = .writeOp v) ∨ (∃ n, e = .writeInLen n) ∨
        (∃ a v, e = .writeIn a v ∧ fits s.cfg.capIn (a + 1) = true) →
      step s = .refused .hostWriteWhileBusy)

/-! ## An operation that reads nothing -/

/-- R36, R101, R146: a DECODE with `IN_LEN mod 4` not 0 reads no element of `IN`: whatever the host has or
has not written there, DECODE completes with InvalidLength at 0, START with `OP = 1` is accepted, and the
step after it ends the operation with the same result. `OUT` and `IN` stay. -/
def Obligations.DecodeOfABadLengthReadsNoElement : Prop :=
  ∀ s : State, s.st ≠ .busy → fits s.cfg.capIn s.inLen = true → s.inLen % 4 ≠ 0 →
    let ends : Host.Outcome State Fault Refusal → Prop := fun o =>
      ∃ t, o = .next t ∧ t.st = .done ∧
        t.result = { err := .invalidLength, errPos := 0, outLen := 0, output := some [] } ∧
        t.outBuf = s.outBuf ∧ t.inBuf = s.inBuf
    ends (exec .decode s) ∧
    (s.op = 1 → exec .start s = .next { s with
      err := .none, errPos := 0, outLen := 0, iptr := 0, optr := 0, npad := 0
      phase := .pChkLen, st := .busy, starts := s.starts + 1 }) ∧
    (s.op = 1 → s.pending = [.start] → ends (runSteps 2 s))
end

