-- ==== Sys2Proof/Laws/Operands.lean ====
section
/-! SUPPORT. What the scans of a text answer, and the two views of a group word. -/

namespace Sys2Proof.Machine

/-! ## The scans -/

/-- `firstBad` answers the least bad index. -/
theorem firstBad_eq_some {bad : Nat → Byte → Bool} {i k : Nat} {cs : List Byte} :
    firstBad bad i cs = some k ↔
      ∃ j c, k = i + j ∧ cs[j]? = some c ∧ bad k c = true ∧
        ∀ l d, l < j → cs[l]? = some d → bad (i + l) d = false := by
  induction cs generalizing i with
  | nil => simp [firstBad]
  | cons c cs ih =>
    simp only [firstBad]
    by_cases hb : bad i c = true
    · simp only [hb, if_true, Option.some.injEq]
      constructor
      · rintro rfl
        exact ⟨0, c, rfl, rfl, hb, fun l d hl => by omega⟩
      · rintro ⟨j, d, rfl, hj, -, hleast⟩
        cases j with
        | zero => rfl
        | succ j =>
          have := hleast 0 c (by omega) rfl
          simp [hb] at this
    · have hb' : bad i c = false := by simpa using hb
      simp only [hb', Bool.false_eq_true, if_false]
      rw [ih]
      constructor
      · rintro ⟨j, d, rfl, hj, hbad, hleast⟩
        refine ⟨j + 1, d, by omega, by simpa using hj, hbad, fun l e hl he => ?_⟩
        cases l with
        | zero =>
          obtain rfl : c = e := by simpa using he
          simpa using hb'
        | succ l =>
          have := hleast l e (by omega) (by simpa using he)
          rwa [show i + (l + 1) = i + 1 + l by omega]
      · rintro ⟨j, d, rfl, hj, hbad, hleast⟩
        cases j with
        | zero =>
          obtain rfl : c = d := by simpa using hj
          simp [hb'] at hbad
        | succ j =>
          refine ⟨j, d, by omega, by simpa using hj, hbad, fun l e hl he => ?_⟩
          have := hleast (l + 1) e (by omega) (by simpa using he)
          rwa [show i + 1 + l = i + (l + 1) by omega]

/-- `firstBad` answers nothing exactly when no index is bad. -/
theorem firstBad_eq_none {bad : Nat → Byte → Bool} {i : Nat} {cs : List Byte} :
    firstBad bad i cs = none ↔ ∀ j c, cs[j]? = some c → bad (i + j) c = false := by
  induction cs generalizing i with
  | nil => simp [firstBad]
  | cons c cs ih =>
    simp only [firstBad]
    by_cases hb : bad i c = true
    · simp only [hb, if_true, reduceCtorEq, false_iff, not_forall]
      exact ⟨0, c, rfl, by simp [hb]⟩
    · have hb' : bad i c = false := by simpa using hb
      simp only [hb', Bool.false_eq_true, if_false]
      rw [ih]
      constructor
      · intro h j d hj
        cases j with
        | zero =>
          obtain rfl : c = d := by simpa using hj
          simpa using hb'
        | succ j =>
          rw [show i + (j + 1) = i + 1 + j by omega]
          exact h j d (by simpa using hj)
      · intro h j d hj
        rw [show i + 1 + j = i + (j + 1) by omega]
        exact h (j + 1) d (by simpa using hj)

/-! ## The views of a word as numbers (30_encoding.md R46 to R49) -/

section
variable (b0 b1 b2 : Byte) (v0 v1 v2 v3 : Sextet) (w : GroupWord) (c0 c1 c2 c3 : Byte) (x : CharWord)

theorem toNat_append_add {m n : Nat} (a : BitVec m) (b : BitVec n) :
    (a ++ b).toNat = a.toNat * 2 ^ n + b.toNat := by
  rw [BitVec.toNat_append, ← Nat.shiftLeft_add_eq_or_of_lt b.isLt, Nat.shiftLeft_eq]

theorem toNat_groupOfBytes :
    (groupOfBytes b0 b1 b2).toNat = b0.toNat * 65536 + b1.toNat * 256 + b2.toNat := by
  simp only [groupOfBytes, toNat_append_add]
  omega

theorem toNat_groupOfSextets : (groupOfSextets v0 v1 v2 v3).toNat =
    v0.toNat * 262144 + v1.toNat * 4096 + v2.toNat * 64 + v3.toNat := by
  simp only [groupOfSextets, toNat_append_add]
  omega

theorem toNat_wordOfChars : (wordOfChars c0 c1 c2 c3).toNat =
    c0.toNat * 16777216 + c1.toNat * 65536 + c2.toNat * 256 + c3.toNat := by
  simp only [wordOfChars, toNat_append_add]
  omega

theorem toNat_slice {n : Nat} (y : BitVec n) (lo len : Nat) :
    (y.extractLsb' lo len).toNat = y.toNat / 2 ^ lo % 2 ^ len := by
  rw [BitVec.extractLsb'_toNat, Nat.shiftRight_eq_div_pow]

@[simp] theorem toNat_sextet0 : (sextet0 w).toNat = w.toNat / 262144 % 64 := toNat_slice ..
@[simp] theorem toNat_sextet1 : (sextet1 w).toNat = w.toNat / 4096 % 64 := toNat_slice ..
@[simp] theorem toNat_sextet2 : (sextet2 w).toNat = w.toNat / 64 % 64 := toNat_slice ..
@[simp] theorem toNat_sextet3 : (sextet3 w).toNat = w.toNat % 64 := by
  simp [sextet3]
@[simp] theorem toNat_byte0 : (byte0 w).toNat = w.toNat / 65536 % 256 := toNat_slice ..
@[simp] theorem toNat_byte1 : (byte1 w).toNat = w.toNat / 256 % 256 := toNat_slice ..
@[simp] theorem toNat_byte2 : (byte2 w).toNat = w.toNat % 256 := by simp [byte2]
@[simp] theorem toNat_char0 : (char0 x).toNat = x.toNat / 16777216 % 256 := toNat_slice ..
@[simp] theorem toNat_char1 : (char1 x).toNat = x.toNat / 65536 % 256 := toNat_slice ..
@[simp] theorem toNat_char2 : (char2 x).toNat = x.toNat / 256 % 256 := toNat_slice ..
@[simp] theorem toNat_char3 : (char3 x).toNat = x.toNat % 256 := by simp [char3]

/-! ## Parts of a word put together, and a word put together from its parts -/

@[simp] theorem byte0_groupOfBytes : byte0 (groupOfBytes b0 b1 b2) = b0 := by
  apply BitVec.eq_of_toNat_eq
  rw [toNat_byte0, toNat_groupOfBytes]
  omega

@[simp] theorem byte1_groupOfBytes : byte1 (groupOfBytes b0 b1 b2) = b1 := by
  apply BitVec.eq_of_toNat_eq
  rw [toNat_byte1, toNat_groupOfBytes]
  omega

@[simp] theorem byte2_groupOfBytes : byte2 (groupOfBytes b0 b1 b2) = b2 := by
  apply BitVec.eq_of_toNat_eq
  rw [toNat_byte2, toNat_groupOfBytes]
  omega

@[simp] theorem sextet0_groupOfSextets : sextet0 (groupOfSextets v0 v1 v2 v3) = v0 := by
  apply BitVec.eq_of_toNat_eq
  rw [toNat_sextet0, toNat_groupOfSextets]
  omega

@[simp] theorem sextet1_groupOfSextets : sextet1 (groupOfSextets v0 v1 v2 v3) = v1 := by
  apply BitVec.eq_of_toNat_eq
  rw [toNat_sextet1, toNat_groupOfSextets]
  omega

@[simp] theorem sextet2_groupOfSextets : sextet2 (groupOfSextets v0 v1 v2 v3) = v2 := by
  apply BitVec.eq_of_toNat_eq
  rw [toNat_sextet2, toNat_groupOfSextets]
  omega

@[simp] theorem sextet3_groupOfSextets : sextet3 (groupOfSextets v0 v1 v2 v3) = v3 := by
  apply BitVec.eq_of_toNat_eq
  rw [toNat_sextet3, toNat_groupOfSextets]
  omega

@[simp] theorem char0_wordOfChars : char0 (wordOfChars c0 c1 c2 c3) = c0 := by
  apply BitVec.eq_of_toNat_eq
  rw [toNat_char0, toNat_wordOfChars]
  omega

@[simp] theorem char1_wordOfChars : char1 (wordOfChars c0 c1 c2 c3) = c1 := by
  apply BitVec.eq_of_toNat_eq
  rw [toNat_char1, toNat_wordOfChars]
  omega

@[simp] theorem char2_wordOfChars : char2 (wordOfChars c0 c1 c2 c3) = c2 := by
  apply BitVec.eq_of_toNat_eq
  rw [toNat_char2, toNat_wordOfChars]
  omega

@[simp] theorem char3_wordOfChars : char3 (wordOfChars c0 c1 c2 c3) = c3 := by
  apply BitVec.eq_of_toNat_eq
  rw [toNat_char3, toNat_wordOfChars]
  omega

theorem groupOfBytes_bytes : groupOfBytes (byte0 w) (byte1 w) (byte2 w) = w := by
  apply BitVec.eq_of_toNat_eq
  rw [toNat_groupOfBytes, toNat_byte0, toNat_byte1, toNat_byte2]
  omega

theorem groupOfSextets_sextets :
    groupOfSextets (sextet0 w) (sextet1 w) (sextet2 w) (sextet3 w) = w := by
  apply BitVec.eq_of_toNat_eq
  rw [toNat_groupOfSextets, toNat_sextet0, toNat_sextet1, toNat_sextet2, toNat_sextet3]
  omega

theorem wordOfChars_chars : wordOfChars (char0 x) (char1 x) (char2 x) (char3 x) = x := by
  apply BitVec.eq_of_toNat_eq
  rw [toNat_wordOfChars, toNat_char0, toNat_char1, toNat_char2, toNat_char3]
  omega

/-- The sextets of a group whose missing bytes are 0 (R82, R83). -/
theorem sextet3_two : sextet3 (groupOfBytes b0 b1 0) = 0 := by
  apply BitVec.eq_of_toNat_eq
  rw [toNat_sextet3, toNat_groupOfBytes]
  simp
  omega

theorem sextet2_one : sextet2 (groupOfBytes b0 0 0) = 0 := by
  apply BitVec.eq_of_toNat_eq
  rw [toNat_sextet2, toNat_groupOfBytes]
  simp
  omega

theorem sextet3_one : sextet3 (groupOfBytes b0 0 0) = 0 := sextet3_two b0 0

end

end Sys2Proof.Machine
end

