-- ==== Sys2Proof/Laws/Text.lean ====
section
/-! SUPPORT. The two scans of a text (CHKPAD, CHKCHR) against the error conditions of R147 and R148. -/

namespace Sys2Proof.Machine

/-- The bit CHKPAD tests is the misplaced pad of R147. -/
theorem misplaced_iff {text : List Byte} {i : Nat} : MisplacedPad text i ↔
   ∃ c, text[i]? = some c ∧ (decide (c = padCode) && !padAllowed text i) = true := by
  unfold MisplacedPad padAllowed padCode
  constructor
  · rintro ⟨h1, h2⟩
    refine ⟨_, h1, ?_⟩
    push Not at h2
    simp only [decide_true, Bool.true_and, Bool.not_eq_true', Bool.or_eq_false_iff, decide_eq_false_iff_not, Bool.and_eq_false_iff]
    refine ⟨h2.1, ?_⟩
    by_cases h3 : i + 2 = text.length
    · right
      rw [show text.length - 1 = i + 1 by omega]
      exact h2.2 h3
    · exact .inl h3
  · rintro ⟨c, h1, h2⟩
    simp only [Bool.and_eq_true, decide_eq_true_eq, Bool.not_eq_true', Bool.or_eq_false_iff, decide_eq_false_iff_not, Bool.and_eq_false_iff] at h2
    obtain ⟨rfl, h2, h3⟩ := h2
    refine ⟨h1, ?_⟩
    push Not
    refine ⟨h2, fun h => ?_⟩
    rcases h3 with h3 | h3
    · exact absurd h h3
    · rwa [show text.length - 1 = i + 1 by omega] at h3

/-- CHKPAD finds the least misplaced pad (R102, R151). -/
theorem firstBadPad_some {text : List Byte} {i : Nat} :
    firstBadPad text = some i ↔ Least (MisplacedPad text) i := by
  unfold firstBadPad Least
  rw [firstBad_eq_some]
  simp only [Nat.zero_add, misplaced_iff]
  constructor
  · rintro ⟨j, c, rfl, h1, h2, h3⟩
    refine ⟨⟨c, h1, h2⟩, ?_⟩
    rintro l hl ⟨d, hd, hb⟩
    rw [h3 l d hl hd] at hb; cases hb
  · rintro ⟨⟨c, h1, h2⟩, h3⟩
    refine ⟨i, c, rfl, h1, h2, fun l d hl hd => ?_⟩
    by_contra hb
    exact h3 l hl ⟨d, hd, by simpa using hb⟩

/-- CHKPAD passes exactly when no pad is misplaced (R102). -/
theorem firstBadPad_none {text : List Byte} :
    firstBadPad text = none ↔ ∀ i, ¬ MisplacedPad text i := by
  unfold firstBadPad
  rw [firstBad_eq_none]
  simp only [Nat.zero_add, misplaced_iff]
  constructor
  · rintro h i ⟨c, h1, h2⟩
    rw [h i c h1] at h2; cases h2
  · intro h j c hj
    by_contra hb
    exact h j ⟨c, hj, by simpa using hb⟩

/-- The bit CHKCHR tests is the unresolved character of R148. -/
theorem unresolved_iff {rev : Rev} {text : List Byte} {i : Nat} : UnresolvedChar rev text i ↔
   ∃ c, text[i]? = some c ∧ (decide (c ≠ padCode) && (indexOf rev c).isNone) = true := by
  unfold UnresolvedChar padCode
  simp

/-- CHKCHR finds the least unresolved character (R103, R151). -/
theorem firstBadChar_some {rev : Rev} {text : List Byte} {i : Nat} :
    firstBadChar rev text = some i ↔ Least (UnresolvedChar rev text) i := by
  unfold firstBadChar Least
  rw [firstBad_eq_some]
  simp only [Nat.zero_add, unresolved_iff]
  constructor
  · rintro ⟨j, c, rfl, h1, h2, h3⟩
    refine ⟨⟨c, h1, h2⟩, ?_⟩
    rintro l hl ⟨d, hd, hb⟩
    rw [h3 l d hl hd] at hb; cases hb
  · rintro ⟨⟨c, h1, h2⟩, h3⟩
    refine ⟨i, c, rfl, h1, h2, fun l d hl hd => ?_⟩
    by_contra hb
    exact h3 l hl ⟨d, hd, by simpa using hb⟩

/-- CHKCHR passes exactly when every character resolves (R103). -/
theorem firstBadChar_none {rev : Rev} {text : List Byte} :
    firstBadChar rev text = none ↔ ∀ i, ¬ UnresolvedChar rev text i := by
  unfold firstBadChar
  rw [firstBad_eq_none]
  simp only [unresolved_iff]
  constructor
  · rintro h i ⟨c, h1, h2⟩
    rw [h i c h1] at h2; cases h2
  · intro h j c hj
    by_contra hb
    exact h j ⟨c, hj, by simpa using hb⟩

/-- `NPAD` counts characters of the text. -/
theorem trailingPads_le_length (text : List Byte) : trailingPads text ≤ text.length := by
  rw [← List.length_reverse]
  unfold trailingPads
  match text.reverse with
  | [] => exact Nat.le_refl 0
  | [c] => by_cases hc : c = padCode <;> simp [hc]
  | c :: d :: rest => by_cases hc : c = padCode <;> by_cases hd : d = padCode <;> simp [hc, hd]

/-- With no misplaced pad, the pads of a text are exactly its last `NPAD` characters (R102). -/
theorem trailing_spec {text : List Byte} (h : ∀ i, ¬ MisplacedPad text i) :
    trailingPads text ≤ 2 ∧ ∀ i, i < text.length → (text[i]? = some 0x3D ↔ text.length ≤ i + trailingPads text) := by
  obtain ⟨r, rfl⟩ : ∃ r : List Byte, text = r.reverse := ⟨text.reverse, by simp⟩
  unfold trailingPads
  have hm : ∀ i : Nat, (r.reverse)[i]? = some 0x3D → i + 1 = r.length ∨ (i + 2 = r.length ∧ r.reverse[i+1]? = some 0x3D) := by
    intro i hi
    have := h i
    unfold MisplacedPad at this
    simp only [List.length_reverse] at this
    tauto
  match r, hm with
  | [], _ => simp
  | [c], hm =>
    by_cases hc : c = padCode
    · subst hc; simp [padCode]
    · simp only [List.reverse_reverse, hc, ne_eq, not_false_eq_true, if_true]
      simp [padCode] at hc ⊢; exact hc
  | c :: d :: rest, hm =>
    have hlast : (c :: d :: rest).reverse[rest.length + 1]? = some c := by simp
    have hpen : (c :: d :: rest).reverse[rest.length]? = some d := by simp
    simp only [List.reverse_reverse, List.head?_cons, Option.some.injEq, List.length_reverse, List.length_cons]
    simp only [List.length_cons] at hm
    have h1 : ∀ i, i < rest.length + 1 + 1 → (c :: d :: rest).reverse[i]? = some 0x3D → i = rest.length + 1 ∨ (i = rest.length ∧ c = 0x3D) := by
      intro i hi h
      rcases hm i h with h' | ⟨h', h''⟩
      · left; omega
      · right
        obtain rfl : i = rest.length := by omega
        rw [hlast] at h''
        exact ⟨rfl, by simpa using h''⟩
    have h2 : (c :: d :: rest).reverse[rest.length + 1]? = some 0x3D ↔ c = 0x3D := by rw [hlast]; simp
    have h3 : (c :: d :: rest).reverse[rest.length]? = some 0x3D ↔ d = 0x3D := by rw [hpen]; simp
    have hfin : ∀ k, k ≤ 2 → ((c :: d :: rest).reverse[rest.length + 1]? = some 0x3D ↔ 1 ≤ k) →
       ((c :: d :: rest).reverse[rest.length]? = some 0x3D → c = 0x3D → k = 2) → (k = 2 → d = 0x3D) → k ≤ 2 ∧ ∀ i, i < rest.length + 1 + 1 → ((c :: d :: rest).reverse[i]? = some 0x3D ↔ rest.length + 1 + 1 ≤ i + k) := by
      intro k hk ha hb hd
      refine ⟨hk, fun i hi => ⟨fun h => ?_, fun h => ?_⟩⟩
      · rcases h1 i hi h with rfl | ⟨rfl, hc⟩
        · have := ha.1 h; omega
        · have := hb h hc; omega
      · have : i = rest.length + 1 ∨ i = rest.length := by omega
        rcases this with rfl | rfl
        · exact ha.2 (by omega)
        · exact h3.2 (hd (by omega))
    by_cases hc : c = 0x3D
    · subst hc
      by_cases hd : d = 0x3D
      · subst hd
        rw [if_neg (by simp [padCode]), if_pos (by simp [padCode])]
        exact hfin 2 (by omega) (h2.trans (by simp)) (fun _ _ => rfl) (fun _ => rfl)
      · rw [if_neg (by simp [padCode]), if_neg (by simpa [padCode] using hd)]
        exact hfin 1 (by omega) (h2.trans (by simp)) (fun h _ => absurd (h3.1 h) hd) (by simp)
    · rw [if_pos (by simpa [padCode] using hc)]
      exact hfin 0 (by omega) (h2.trans (by simpa using hc)) (fun _ h => absurd h hc) (by simp)

end Sys2Proof.Machine
end

