-- ==== Sys2Proof/Laws/Codec.lean ====
section
/-! SUPPORT. What the encoder's and the decoder's functions do group by group. -/

namespace Sys2Proof.Machine

/-- The group steps of the decoder look a symbol up as its index. -/
theorem sextetOf_fwdAt : ∀ i : Sextet, sextetOf builtRev (fwdAt i) = i := by decide

/-- A text is empty or starts with a whole group, if its length is a multiple of 4. -/
theorem wholeGroups {text : List Byte} (h : text.length % 4 = 0) :
    text = [] ∨ ∃ c0 c1 c2 c3 rest, text = c0 :: c1 :: c2 :: c3 :: rest ∧ rest.length % 4 = 0 := by
  match text, h with
  | [], _ => exact .inl rfl
  | [_], h => simp at h
  | [_, _], h => simp at h
  | [_, _, _], h => simp at h
  | c0 :: c1 :: c2 :: c3 :: rest, h =>
    exact .inr ⟨c0, c1, c2, c3, rest, rfl, by simp only [List.length_cons] at h; omega⟩

/-- The encoder takes the next run of at most three bytes off the front of what is left (R80). -/
theorem encodeBytes_drop (input : List Byte) (i : Nat) :
    encodeBytes (input.drop i) =
      encodeBytes ((input.drop i).take 3) ++ encodeBytes (input.drop (i + 3)) := by
  have h : input.drop (i + 3) = (input.drop i).drop 3 := by simp
  rw [h]
  generalize input.drop i = l
  match l with
  | [] => rfl
  | [_] => simp [encodeBytes]
  | [_, _] => simp [encodeBytes]
  | a :: b :: c :: r => simp [encodeBytes]

/-- The decoder's translation of whole groups followed by a text. -/
theorem decodeGroups_append (rev : Rev) (a b : List Byte) (h : a.length % 4 = 0) :
    decodeGroups rev (a ++ b) = decodeGroups rev a ++ decodeGroups rev b := by
  induction a using decodeGroups.induct with
  | case1 c0 c1 c2 c3 rest ih =>
    simp only [List.cons_append, decodeGroups, List.append_assoc]
    rw [ih (by simp only [List.length_cons] at h; omega)]
  | case2 x hx =>
    rcases wholeGroups h with rfl | ⟨c0, c1, c2, c3, r, rfl, _⟩
    · rfl
    · exact absurd rfl (hx c0 c1 c2 c3 r)

/-- The decoder takes the next group off the front of what is left (R100). -/
theorem decodeGroups_drop (rev : Rev) (text : List Byte) (i : Nat) (h : i + 4 ≤ text.length) :
    decodeGroups rev (text.drop i) =
      decodeGroups rev ((text.drop i).take 4) ++ decodeGroups rev (text.drop (i + 4)) := by
  have hd : text.drop (i + 4) = (text.drop i).drop 4 := by simp
  rw [hd]
  have hl : 4 ≤ (text.drop i).length := by simp; omega
  generalize text.drop i = l at *
  match l, hl with
  | a :: b :: c :: d :: r, _ => simp [decodeGroups]

/-- A text decodes exactly when the three checks pass, and then to the translation of its groups. -/
theorem decodeText_eq_ok {rev : Rev} {text bytes : List Byte} :
    decodeText rev text = .ok bytes ↔ text.length % 4 = 0 ∧ firstBadPad text = none ∧
      firstBadChar rev text = none ∧ bytes = decodeGroups rev text := by
  unfold decodeText
  by_cases h : text.length % 4 = 0
  · simp only [h, ne_eq, not_true_eq_false, if_false, true_and]
    cases firstBadPad text with
    | some i => simp
    | none =>
      cases firstBadChar rev text with
      | some i => simp
      | none => simp [eq_comm]
  · simp [h]

/-! ## Where the pads of a checked text stand -/

/-- The pads of `text` are exactly its last `n` characters, and `n` is at most 2 (R102). -/
def PadsAre (text : List Byte) (n : Nat) : Prop :=
  n ≤ 2 ∧ ∀ i, i < text.length → (text[i]? = some 0x3D ↔ text.length ≤ i + n)

theorem padsAre_trailingPads {text : List Byte} (h : firstBadPad text = none) :
    PadsAre text (trailingPads text) :=
  trailing_spec (firstBadPad_none.1 h)

/-- A group that is not the last has no pad, and the pads of the rest stand as before. -/
theorem padsAre_tail {c0 c1 c2 c3 : Byte} {rest : List Byte} {n : Nat}
    (h : PadsAre (c0 :: c1 :: c2 :: c3 :: rest) n) (hr : rest ≠ []) (h4 : rest.length % 4 = 0) :
    c0 ≠ 0x3D ∧ c1 ≠ 0x3D ∧ c2 ≠ 0x3D ∧ c3 ≠ 0x3D ∧ PadsAre rest n := by
  obtain ⟨hn, h⟩ := h
  have hl : rest.length ≠ 0 := by simpa using hr
  simp only [List.length_cons] at h
  have a0 := h 0 (by omega)
  have a1 := h 1 (by omega)
  have a2 := h 2 (by omega)
  have a3 := h 3 (by omega)
  simp at a0 a1 a2 a3
  refine ⟨fun e => ?_, fun e => ?_, fun e => ?_, fun e => ?_, hn, fun i hi => ?_⟩
  · have := a0.1 e; omega
  · have := a1.1 e; omega
  · have := a2.1 e; omega
  · have := a3.1 e; omega
  · have := h (i + 4) (by omega)
    simp at this
    exact this.trans (by omega)

/-- The last group's shape by the number of pads. -/
theorem padsAre_one {c0 c1 c2 c3 : Byte} {n : Nat} (h : PadsAre [c0, c1, c2, c3] n) :
    c0 ≠ 0x3D ∧ c1 ≠ 0x3D ∧ (c2 = 0x3D ↔ n = 2) ∧ (c3 = 0x3D ↔ 1 ≤ n) := by
  obtain ⟨hn, h⟩ := h
  have a0 := h 0 (by simp)
  have a1 := h 1 (by simp)
  have a2 := h 2 (by simp)
  have a3 := h 3 (by simp)
  simp at a0 a1 a2 a3
  refine ⟨fun e => ?_, fun e => ?_, ?_, ?_⟩
  · have := a0.1 e; omega
  · have := a1.1 e; omega
  · exact a2.trans (by omega)
  · exact a3.trans (by omega)

/-- How many bytes a group gives, by its pads (R104, R105, R106). -/
theorem decodeGroupBytes_length (rev : Rev) {c0 c1 c2 c3 : Byte} {n : Nat}
    (h2 : c2 = 0x3D ↔ n = 2) (h3 : c3 = 0x3D ↔ 1 ≤ n) (hn : n ≤ 2) :
    (decodeGroupBytes rev c0 c1 c2 c3).length = 3 - n := by
  unfold decodeGroupBytes padCode
  split_ifs with g1 g2
  · have : n = 0 := by
      by_contra h
      exact g1 (h3.2 (by omega))
    subst this
    rfl
  · have : 1 ≤ n := h3.1 (by simpa using g1)
    have : n ≠ 2 := fun h => g2 (h2.2 h)
    obtain rfl : n = 1 := by omega
    rfl
  · obtain rfl := h2.1 (by simpa using g2)
    rfl

end Sys2Proof.Machine
end

