-- ==== Sys2Proof/Laws/Memory.lean ====
section
/-! SUPPORT. What the buffer operations do: read after write, the sequences, and the canonical form. -/

namespace Sys2Proof.Machine.Memory

/-! ## One element -/

@[simp] theorem read_nil (a : Nat) : read [] a = none := rfl

theorem read_write_same (m : Memory) (a : Nat) (v : Byte) : read (write m a v) a = some v := by
  induction m with
  | nil => simp [write, read]
  | cons e m ih =>
    obtain ⟨b, w⟩ := e
    unfold write
    split
    · simp [read]
    · split
      · simp [read]
      · rename_i _ h
        simp only [read, if_neg (Ne.symm h)]
        exact ih

theorem read_write_other (m : Memory) {a b : Nat} (v : Byte) (h : b ≠ a) :
    read (write m a v) b = read m b := by
  induction m with
  | nil => simp [write, read, Ne.symm h]
  | cons e m ih =>
    obtain ⟨c, w⟩ := e
    unfold write
    split
    · simp [read, Ne.symm h]
    · split
      · rename_i _ hac
        subst hac
        simp [read, Ne.symm h]
      · simp only [read, ih]

/-! ## The canonical form -/

theorem wf_cons {a : Nat} {v : Byte} {m : Memory} :
    wf ((a, v) :: m) = true ↔ (∀ e ∈ m, a < e.1) ∧ wf m = true := by
  induction m generalizing a v with
  | nil => simp [wf]
  | cons e m ih =>
    obtain ⟨b, w⟩ := e
    simp only [wf, Bool.and_eq_true, decide_eq_true_eq, List.mem_cons, forall_eq_or_imp]
    constructor
    · rintro ⟨hab, hm⟩
      exact ⟨⟨hab, fun e he => Nat.lt_trans hab ((ih.1 hm).1 e he)⟩, hm⟩
    · rintro ⟨⟨hab, -⟩, hm⟩
      exact ⟨hab, hm⟩

theorem mem_write {m : Memory} {a : Nat} {v : Byte} {e : Host.Cell} (h : e ∈ write m a v) :
    e = (a, v) ∨ e ∈ m := by
  induction m with
  | nil => simpa [write] using h
  | cons d m ih =>
    obtain ⟨b, w⟩ := d
    unfold write at h
    split at h
    · simpa using h
    · split at h
      · rcases List.mem_cons.1 h with h | h
        · exact .inl h
        · exact .inr (List.mem_cons_of_mem _ h)
      · rcases List.mem_cons.1 h with h | h
        · exact .inr (h ▸ List.mem_cons_self ..)
        · exact (ih h).imp_right (List.mem_cons_of_mem _)

/-- A write keeps the canonical form. -/
theorem write_wf {m : Memory} (a : Nat) (v : Byte) (h : wf m = true) : wf (write m a v) = true := by
  induction m with
  | nil => rfl
  | cons d m ih =>
    obtain ⟨b, w⟩ := d
    have hm := wf_cons.1 h
    unfold write
    split
    · rename_i hab
      refine wf_cons.2 ⟨fun e he => ?_, h⟩
      rcases List.mem_cons.1 he with rfl | he
      · exact hab
      · exact Nat.lt_trans hab (hm.1 e he)
    · split
      · rename_i _ hab
        subst hab
        exact wf_cons.2 hm
      · rename_i h1 h2
        refine wf_cons.2 ⟨fun e he => ?_, ih hm.2⟩
        rcases mem_write he with rfl | he
        · exact (by omega : b < a)
        · exact hm.1 e he

/-- So does writing a sequence. -/
theorem writeSeq_wf {m : Memory} (a : Nat) (vs : List Byte) (h : wf m = true) :
    wf (writeSeq m a vs) = true := by
  induction vs generalizing m a with
  | nil => exact h
  | cons v vs ih => exact ih _ (write_wf a v h)

theorem read_eq_none_of_lt {m : Memory} {a : Nat} (h : ∀ e ∈ m, a < e.1) : read m a = none := by
  induction m with
  | nil => rfl
  | cons d m ih =>
    obtain ⟨b, w⟩ := d
    have hb : a < b := h (b, w) (List.mem_cons_self ..)
    simp only [read, if_neg (by omega : ¬ b = a)]
    exact ih fun e he => h e (List.mem_cons_of_mem _ he)

/-- Equal memories are equal lists. -/
theorem ext_of_wf {m n : Memory} (hm : wf m = true) (hn : wf n = true)
    (h : ∀ a, read m a = read n a) : m = n := by
  induction m generalizing n with
  | nil =>
    cases n with
    | nil => rfl
    | cons d n =>
      obtain ⟨b, w⟩ := d
      have := h b
      simp [read] at this
  | cons d m ih =>
    obtain ⟨a, v⟩ := d
    have hm' := wf_cons.1 hm
    cases n with
    | nil =>
      have := h a
      simp [read] at this
    | cons e n =>
      obtain ⟨b, w⟩ := e
      have hn' := wf_cons.1 hn
      have hab : a = b := by
        rcases Nat.lt_trichotomy a b with hlt | heq | hgt
        · have h1 := h a
          rw [show read ((b, w) :: n) a = none from read_eq_none_of_lt (by
            intro e he
            rcases List.mem_cons.1 he with rfl | he
            · exact hlt
            · exact Nat.lt_trans hlt (hn'.1 e he))] at h1
          simp [read] at h1
        · exact heq
        · have h1 := h b
          rw [show read ((a, v) :: m) b = none from read_eq_none_of_lt (by
            intro e he
            rcases List.mem_cons.1 he with rfl | he
            · exact hgt
            · exact Nat.lt_trans hgt (hm'.1 e he))] at h1
          simp [read] at h1
      subst hab
      have hvw : v = w := by simpa [read] using h a
      subst hvw
      refine congrArg _ (ih hm'.2 hn'.2 fun c => ?_)
      by_cases hc : a = c
      · subst hc
        rw [read_eq_none_of_lt hm'.1, read_eq_none_of_lt hn'.1]
      · simpa [read, hc] using h c

/-! ## Sequences -/

@[simp] theorem writeSeq_nil (m : Memory) (a : Nat) : writeSeq m a [] = m := rfl

theorem writeSeq_append (m : Memory) (a : Nat) (xs ys : List Byte) :
    writeSeq m a (xs ++ ys) = writeSeq (writeSeq m a xs) (a + xs.length) ys := by
  induction xs generalizing m a with
  | nil => rfl
  | cons x xs ih =>
    simp only [List.cons_append, writeSeq, ih, List.length_cons]
    congr 1
    omega

/-- Outside the written elements every element reads as before. -/
theorem read_writeSeq_outside (m : Memory) (a b : Nat) (vs : List Byte)
    (h : b < a ∨ a + vs.length ≤ b) : read (writeSeq m a vs) b = read m b := by
  induction vs generalizing m a with
  | nil => rfl
  | cons v vs ih =>
    have hl : (v :: vs).length = vs.length + 1 := rfl
    rw [writeSeq, ih _ _ (by omega), read_write_other _ _ (by omega)]

/-- Inside, each element reads as written. -/
theorem read_writeSeq_inside (m : Memory) (a i : Nat) (vs : List Byte) (h : i < vs.length) :
    read (writeSeq m a vs) (a + i) = vs[i]? := by
  induction vs generalizing m a i with
  | nil => simp at h
  | cons v vs ih =>
    rw [writeSeq]
    cases i with
    | zero =>
      rw [read_writeSeq_outside _ _ _ _ (by omega), Nat.add_zero, read_write_same]
      rfl
    | succ i =>
      have hi : i < vs.length := by simpa using h
      rw [show a + (i + 1) = (a + 1) + i by omega, ih _ _ _ hi]
      rfl

/-- `readSeq` answers exactly when every element is written, and then with those elements. -/
theorem readSeq_eq_some {m : Memory} {a n : Nat} {vs : List Byte} :
    readSeq m a n = some vs ↔ vs.length = n ∧ ∀ i, i < n → read m (a + i) = vs[i]? := by
  induction n generalizing a vs with
  | zero => cases vs <;> simp [readSeq]
  | succ n ih =>
    cases vs with
    | nil =>
      simp only [readSeq, List.length_nil]
      constructor
      · intro h
        split at h <;> simp at h
      · rintro ⟨h, -⟩
        omega
    | cons v vs =>
      have key : readSeq m a (n + 1) = some (v :: vs) ↔
          read m a = some v ∧ readSeq m (a + 1) n = some vs := by
        simp only [readSeq]
        split
        · rename_i x xs hx hxs
          simp [hx, hxs]
        · rename_i hno
          simp only [reduceCtorEq, false_iff]
          rintro ⟨h1, h2⟩
          exact hno _ _ h1 h2
      rw [key, ih]
      constructor
      · rintro ⟨h0, hl, hr⟩
        refine ⟨by simp [hl], fun i hi => ?_⟩
        cases i with
        | zero => simpa using h0
        | succ i =>
          have := hr i (by omega)
          rw [show a + (i + 1) = a + 1 + i by omega, this]
          rfl
      · rintro ⟨hl, hr⟩
        refine ⟨by simpa using hr 0 (by omega), by simpa using hl, fun i hi => ?_⟩
        have := hr (i + 1) (by omega)
        rw [show a + 1 + i = a + (i + 1) by omega, this]
        rfl

theorem readSeq_writeSeq (m : Memory) (a : Nat) (vs : List Byte) :
    readSeq (writeSeq m a vs) a vs.length = some vs :=
  readSeq_eq_some.2 ⟨rfl, fun i hi => read_writeSeq_inside m a i vs hi⟩

theorem readSeq_append {m : Memory} {a : Nat} {xs ys : List Byte}
    (hx : readSeq m a xs.length = some xs) (hy : readSeq m (a + xs.length) ys.length = some ys) :
    readSeq m a (xs ++ ys).length = some (xs ++ ys) := by
  rw [readSeq_eq_some] at *
  refine ⟨rfl, fun i hi => ?_⟩
  by_cases h : i < xs.length
  · rw [List.getElem?_append_left h]
    exact hx.2 i h
  · rw [List.getElem?_append_right (by omega)]
    have := hy.2 (i - xs.length) (by simp at hi; omega)
    rw [← this]
    congr 1
    omega

/-- Two memories that read alike over a range give the same sequence there. -/
theorem readSeq_congr {m k : Memory} {a n : Nat} (h : ∀ i, i < n → read m (a + i) = read k (a + i)) :
    readSeq m a n = readSeq k a n := by
  induction n generalizing a with
  | zero => rfl
  | succ n ih =>
    have h0 : read m a = read k a := by simpa using h 0 (by omega)
    have hs : readSeq m (a + 1) n = readSeq k (a + 1) n := ih fun i hi => by
      have := h (i + 1) (by omega)
      rwa [show a + 1 + i = a + (i + 1) by omega]
    simp only [readSeq, h0, hs]

end Sys2Proof.Machine.Memory
end

