-- ==== Sys2Proof/Laws/State.lean ====
section
/-! SUPPORT. One lemma for each field under each update of the state, all true by rfl. -/

namespace Sys2Proof.Machine

variable (s : State)

/-! ### beginOperation -/

@[simp] theorem beginOperation_rev (o : OpCode) : (s.beginOperation o).rev = s.rev := rfl
@[simp] theorem beginOperation_op (o : OpCode) : (s.beginOperation o).op = s.op := rfl
@[simp] theorem beginOperation_inLen (o : OpCode) : (s.beginOperation o).inLen = s.inLen := rfl
@[simp] theorem beginOperation_outLen (o : OpCode) : (s.beginOperation o).outLen = 0 := rfl
@[simp] theorem beginOperation_st (o : OpCode) : (s.beginOperation o).st = .busy := rfl
@[simp] theorem beginOperation_err (o : OpCode) : (s.beginOperation o).err = .none := rfl
@[simp] theorem beginOperation_errPos (o : OpCode) : (s.beginOperation o).errPos = 0 := rfl
@[simp] theorem beginOperation_inBuf (o : OpCode) : (s.beginOperation o).inBuf = s.inBuf := rfl
@[simp] theorem beginOperation_outBuf (o : OpCode) : (s.beginOperation o).outBuf = s.outBuf := rfl
@[simp] theorem beginOperation_phase (o : OpCode) : (s.beginOperation o).phase = if o = 0 then .pEnc else .pChkLen := rfl
@[simp] theorem beginOperation_iptr (o : OpCode) : (s.beginOperation o).iptr = 0 := rfl
@[simp] theorem beginOperation_optr (o : OpCode) : (s.beginOperation o).optr = 0 := rfl
@[simp] theorem beginOperation_acc (o : OpCode) : (s.beginOperation o).acc = s.acc := rfl
@[simp] theorem beginOperation_v0 (o : OpCode) : (s.beginOperation o).v0 = s.v0 := rfl
@[simp] theorem beginOperation_v1 (o : OpCode) : (s.beginOperation o).v1 = s.v1 := rfl
@[simp] theorem beginOperation_v2 (o : OpCode) : (s.beginOperation o).v2 = s.v2 := rfl
@[simp] theorem beginOperation_v3 (o : OpCode) : (s.beginOperation o).v3 = s.v3 := rfl
@[simp] theorem beginOperation_npad (o : OpCode) : (s.beginOperation o).npad = 0 := rfl
@[simp] theorem beginOperation_cfg (o : OpCode) : (s.beginOperation o).cfg = s.cfg := rfl
@[simp] theorem beginOperation_pending (o : OpCode) : (s.beginOperation o).pending = s.pending := rfl
@[simp] theorem beginOperation_readData (o : OpCode) : (s.beginOperation o).readData = s.readData := rfl
@[simp] theorem beginOperation_mapped (o : OpCode) : (s.beginOperation o).mapped = s.mapped := rfl
@[simp] theorem beginOperation_resets (o : OpCode) : (s.beginOperation o).resets = s.resets := rfl
@[simp] theorem beginOperation_starts (o : OpCode) : (s.beginOperation o).starts = s.starts + 1 := rfl

/-! ### raise -/

@[simp] theorem raise_rev (k : Err) (p : Nat) : (s.raise k p).rev = s.rev := rfl
@[simp] theorem raise_op (k : Err) (p : Nat) : (s.raise k p).op = s.op := rfl
@[simp] theorem raise_inLen (k : Err) (p : Nat) : (s.raise k p).inLen = s.inLen := rfl
@[simp] theorem raise_outLen (k : Err) (p : Nat) : (s.raise k p).outLen = 0 := rfl
@[simp] theorem raise_st (k : Err) (p : Nat) : (s.raise k p).st = .done := rfl
@[simp] theorem raise_err (k : Err) (p : Nat) : (s.raise k p).err = k := rfl
@[simp] theorem raise_errPos (k : Err) (p : Nat) : (s.raise k p).errPos = p := rfl
@[simp] theorem raise_inBuf (k : Err) (p : Nat) : (s.raise k p).inBuf = s.inBuf := rfl
@[simp] theorem raise_outBuf (k : Err) (p : Nat) : (s.raise k p).outBuf = s.outBuf := rfl
@[simp] theorem raise_phase (k : Err) (p : Nat) : (s.raise k p).phase = s.phase := rfl
@[simp] theorem raise_iptr (k : Err) (p : Nat) : (s.raise k p).iptr = s.iptr := rfl
@[simp] theorem raise_optr (k : Err) (p : Nat) : (s.raise k p).optr = s.optr := rfl
@[simp] theorem raise_acc (k : Err) (p : Nat) : (s.raise k p).acc = s.acc := rfl
@[simp] theorem raise_v0 (k : Err) (p : Nat) : (s.raise k p).v0 = s.v0 := rfl
@[simp] theorem raise_v1 (k : Err) (p : Nat) : (s.raise k p).v1 = s.v1 := rfl
@[simp] theorem raise_v2 (k : Err) (p : Nat) : (s.raise k p).v2 = s.v2 := rfl
@[simp] theorem raise_v3 (k : Err) (p : Nat) : (s.raise k p).v3 = s.v3 := rfl
@[simp] theorem raise_npad (k : Err) (p : Nat) : (s.raise k p).npad = s.npad := rfl
@[simp] theorem raise_cfg (k : Err) (p : Nat) : (s.raise k p).cfg = s.cfg := rfl
@[simp] theorem raise_pending (k : Err) (p : Nat) : (s.raise k p).pending = s.pending := rfl
@[simp] theorem raise_readData (k : Err) (p : Nat) : (s.raise k p).readData = s.readData := rfl
@[simp] theorem raise_mapped (k : Err) (p : Nat) : (s.raise k p).mapped = s.mapped := rfl
@[simp] theorem raise_resets (k : Err) (p : Nat) : (s.raise k p).resets = s.resets := rfl
@[simp] theorem raise_starts (k : Err) (p : Nat) : (s.raise k p).starts = s.starts := rfl

/-! ### finish -/

@[simp] theorem finish_rev : (s.finish).rev = s.rev := rfl
@[simp] theorem finish_op : (s.finish).op = s.op := rfl
@[simp] theorem finish_inLen : (s.finish).inLen = s.inLen := rfl
@[simp] theorem finish_outLen : (s.finish).outLen = s.optr := rfl
@[simp] theorem finish_st : (s.finish).st = .done := rfl
@[simp] theorem finish_err : (s.finish).err = s.err := rfl
@[simp] theorem finish_errPos : (s.finish).errPos = s.errPos := rfl
@[simp] theorem finish_inBuf : (s.finish).inBuf = s.inBuf := rfl
@[simp] theorem finish_outBuf : (s.finish).outBuf = s.outBuf := rfl
@[simp] theorem finish_phase : (s.finish).phase = s.phase := rfl
@[simp] theorem finish_iptr : (s.finish).iptr = s.iptr := rfl
@[simp] theorem finish_optr : (s.finish).optr = s.optr := rfl
@[simp] theorem finish_acc : (s.finish).acc = s.acc := rfl
@[simp] theorem finish_v0 : (s.finish).v0 = s.v0 := rfl
@[simp] theorem finish_v1 : (s.finish).v1 = s.v1 := rfl
@[simp] theorem finish_v2 : (s.finish).v2 = s.v2 := rfl
@[simp] theorem finish_v3 : (s.finish).v3 = s.v3 := rfl
@[simp] theorem finish_npad : (s.finish).npad = s.npad := rfl
@[simp] theorem finish_cfg : (s.finish).cfg = s.cfg := rfl
@[simp] theorem finish_pending : (s.finish).pending = s.pending := rfl
@[simp] theorem finish_readData : (s.finish).readData = s.readData := rfl
@[simp] theorem finish_mapped : (s.finish).mapped = s.mapped := rfl
@[simp] theorem finish_resets : (s.finish).resets = s.resets := rfl
@[simp] theorem finish_starts : (s.finish).starts = s.starts := rfl

/-! ### setPhase -/

@[simp] theorem setPhase_rev (p : Phase) : (s.setPhase p).rev = s.rev := rfl
@[simp] theorem setPhase_op (p : Phase) : (s.setPhase p).op = s.op := rfl
@[simp] theorem setPhase_inLen (p : Phase) : (s.setPhase p).inLen = s.inLen := rfl
@[simp] theorem setPhase_outLen (p : Phase) : (s.setPhase p).outLen = s.outLen := rfl
@[simp] theorem setPhase_st (p : Phase) : (s.setPhase p).st = s.st := rfl
@[simp] theorem setPhase_err (p : Phase) : (s.setPhase p).err = s.err := rfl
@[simp] theorem setPhase_errPos (p : Phase) : (s.setPhase p).errPos = s.errPos := rfl
@[simp] theorem setPhase_inBuf (p : Phase) : (s.setPhase p).inBuf = s.inBuf := rfl
@[simp] theorem setPhase_outBuf (p : Phase) : (s.setPhase p).outBuf = s.outBuf := rfl
@[simp] theorem setPhase_phase (p : Phase) : (s.setPhase p).phase = p := rfl
@[simp] theorem setPhase_iptr (p : Phase) : (s.setPhase p).iptr = s.iptr := rfl
@[simp] theorem setPhase_optr (p : Phase) : (s.setPhase p).optr = s.optr := rfl
@[simp] theorem setPhase_acc (p : Phase) : (s.setPhase p).acc = s.acc := rfl
@[simp] theorem setPhase_v0 (p : Phase) : (s.setPhase p).v0 = s.v0 := rfl
@[simp] theorem setPhase_v1 (p : Phase) : (s.setPhase p).v1 = s.v1 := rfl
@[simp] theorem setPhase_v2 (p : Phase) : (s.setPhase p).v2 = s.v2 := rfl
@[simp] theorem setPhase_v3 (p : Phase) : (s.setPhase p).v3 = s.v3 := rfl
@[simp] theorem setPhase_npad (p : Phase) : (s.setPhase p).npad = s.npad := rfl
@[simp] theorem setPhase_cfg (p : Phase) : (s.setPhase p).cfg = s.cfg := rfl
@[simp] theorem setPhase_pending (p : Phase) : (s.setPhase p).pending = s.pending := rfl
@[simp] theorem setPhase_readData (p : Phase) : (s.setPhase p).readData = s.readData := rfl
@[simp] theorem setPhase_mapped (p : Phase) : (s.setPhase p).mapped = s.mapped := rfl
@[simp] theorem setPhase_resets (p : Phase) : (s.setPhase p).resets = s.resets := rfl
@[simp] theorem setPhase_starts (p : Phase) : (s.setPhase p).starts = s.starts := rfl

/-! ### passPads -/

@[simp] theorem passPads_rev (n : Nat) : (s.passPads n).rev = s.rev := rfl
@[simp] theorem passPads_op (n : Nat) : (s.passPads n).op = s.op := rfl
@[simp] theorem passPads_inLen (n : Nat) : (s.passPads n).inLen = s.inLen := rfl
@[simp] theorem passPads_outLen (n : Nat) : (s.passPads n).outLen = s.outLen := rfl
@[simp] theorem passPads_st (n : Nat) : (s.passPads n).st = s.st := rfl
@[simp] theorem passPads_err (n : Nat) : (s.passPads n).err = s.err := rfl
@[simp] theorem passPads_errPos (n : Nat) : (s.passPads n).errPos = s.errPos := rfl
@[simp] theorem passPads_inBuf (n : Nat) : (s.passPads n).inBuf = s.inBuf := rfl
@[simp] theorem passPads_outBuf (n : Nat) : (s.passPads n).outBuf = s.outBuf := rfl
@[simp] theorem passPads_phase (n : Nat) : (s.passPads n).phase = .pChkChr := rfl
@[simp] theorem passPads_iptr (n : Nat) : (s.passPads n).iptr = s.iptr := rfl
@[simp] theorem passPads_optr (n : Nat) : (s.passPads n).optr = s.optr := rfl
@[simp] theorem passPads_acc (n : Nat) : (s.passPads n).acc = s.acc := rfl
@[simp] theorem passPads_v0 (n : Nat) : (s.passPads n).v0 = s.v0 := rfl
@[simp] theorem passPads_v1 (n : Nat) : (s.passPads n).v1 = s.v1 := rfl
@[simp] theorem passPads_v2 (n : Nat) : (s.passPads n).v2 = s.v2 := rfl
@[simp] theorem passPads_v3 (n : Nat) : (s.passPads n).v3 = s.v3 := rfl
@[simp] theorem passPads_npad (n : Nat) : (s.passPads n).npad = BitVec.ofNat 2 n := rfl
@[simp] theorem passPads_cfg (n : Nat) : (s.passPads n).cfg = s.cfg := rfl
@[simp] theorem passPads_pending (n : Nat) : (s.passPads n).pending = s.pending := rfl
@[simp] theorem passPads_readData (n : Nat) : (s.passPads n).readData = s.readData := rfl
@[simp] theorem passPads_mapped (n : Nat) : (s.passPads n).mapped = s.mapped := rfl
@[simp] theorem passPads_resets (n : Nat) : (s.passPads n).resets = s.resets := rfl
@[simp] theorem passPads_starts (n : Nat) : (s.passPads n).starts = s.starts := rfl

/-! ### enterGroups -/

@[simp] theorem enterGroups_rev : (s.enterGroups).rev = s.rev := rfl
@[simp] theorem enterGroups_op : (s.enterGroups).op = s.op := rfl
@[simp] theorem enterGroups_inLen : (s.enterGroups).inLen = s.inLen := rfl
@[simp] theorem enterGroups_outLen : (s.enterGroups).outLen = s.outLen := rfl
@[simp] theorem enterGroups_st : (s.enterGroups).st = s.st := rfl
@[simp] theorem enterGroups_err : (s.enterGroups).err = s.err := rfl
@[simp] theorem enterGroups_errPos : (s.enterGroups).errPos = s.errPos := rfl
@[simp] theorem enterGroups_inBuf : (s.enterGroups).inBuf = s.inBuf := rfl
@[simp] theorem enterGroups_outBuf : (s.enterGroups).outBuf = s.outBuf := rfl
@[simp] theorem enterGroups_phase : (s.enterGroups).phase = .pDec := rfl
@[simp] theorem enterGroups_iptr : (s.enterGroups).iptr = 0 := rfl
@[simp] theorem enterGroups_optr : (s.enterGroups).optr = 0 := rfl
@[simp] theorem enterGroups_acc : (s.enterGroups).acc = s.acc := rfl
@[simp] theorem enterGroups_v0 : (s.enterGroups).v0 = s.v0 := rfl
@[simp] theorem enterGroups_v1 : (s.enterGroups).v1 = s.v1 := rfl
@[simp] theorem enterGroups_v2 : (s.enterGroups).v2 = s.v2 := rfl
@[simp] theorem enterGroups_v3 : (s.enterGroups).v3 = s.v3 := rfl
@[simp] theorem enterGroups_npad : (s.enterGroups).npad = s.npad := rfl
@[simp] theorem enterGroups_cfg : (s.enterGroups).cfg = s.cfg := rfl
@[simp] theorem enterGroups_pending : (s.enterGroups).pending = s.pending := rfl
@[simp] theorem enterGroups_readData : (s.enterGroups).readData = s.readData := rfl
@[simp] theorem enterGroups_mapped : (s.enterGroups).mapped = s.mapped := rfl
@[simp] theorem enterGroups_resets : (s.enterGroups).resets = s.resets := rfl
@[simp] theorem enterGroups_starts : (s.enterGroups).starts = s.starts := rfl

/-! ### loadGroup -/

@[simp] theorem loadGroup_rev (w : GroupWord) (a b c d : Sextet) : (s.loadGroup w a b c d).rev = s.rev := rfl
@[simp] theorem loadGroup_op (w : GroupWord) (a b c d : Sextet) : (s.loadGroup w a b c d).op = s.op := rfl
@[simp] theorem loadGroup_inLen (w : GroupWord) (a b c d : Sextet) : (s.loadGroup w a b c d).inLen = s.inLen := rfl
@[simp] theorem loadGroup_outLen (w : GroupWord) (a b c d : Sextet) : (s.loadGroup w a b c d).outLen = s.outLen := rfl
@[simp] theorem loadGroup_st (w : GroupWord) (a b c d : Sextet) : (s.loadGroup w a b c d).st = s.st := rfl
@[simp] theorem loadGroup_err (w : GroupWord) (a b c d : Sextet) : (s.loadGroup w a b c d).err = s.err := rfl
@[simp] theorem loadGroup_errPos (w : GroupWord) (a b c d : Sextet) : (s.loadGroup w a b c d).errPos = s.errPos := rfl
@[simp] theorem loadGroup_inBuf (w : GroupWord) (a b c d : Sextet) : (s.loadGroup w a b c d).inBuf = s.inBuf := rfl
@[simp] theorem loadGroup_outBuf (w : GroupWord) (a b c d : Sextet) : (s.loadGroup w a b c d).outBuf = s.outBuf := rfl
@[simp] theorem loadGroup_phase (w : GroupWord) (a b c d : Sextet) : (s.loadGroup w a b c d).phase = s.phase := rfl
@[simp] theorem loadGroup_iptr (w : GroupWord) (a b c d : Sextet) : (s.loadGroup w a b c d).iptr = s.iptr := rfl
@[simp] theorem loadGroup_optr (w : GroupWord) (a b c d : Sextet) : (s.loadGroup w a b c d).optr = s.optr := rfl
@[simp] theorem loadGroup_acc (w : GroupWord) (a b c d : Sextet) : (s.loadGroup w a b c d).acc = w := rfl
@[simp] theorem loadGroup_v0 (w : GroupWord) (a b c d : Sextet) : (s.loadGroup w a b c d).v0 = a := rfl
@[simp] theorem loadGroup_v1 (w : GroupWord) (a b c d : Sextet) : (s.loadGroup w a b c d).v1 = b := rfl
@[simp] theorem loadGroup_v2 (w : GroupWord) (a b c d : Sextet) : (s.loadGroup w a b c d).v2 = c := rfl
@[simp] theorem loadGroup_v3 (w : GroupWord) (a b c d : Sextet) : (s.loadGroup w a b c d).v3 = d := rfl
@[simp] theorem loadGroup_npad (w : GroupWord) (a b c d : Sextet) : (s.loadGroup w a b c d).npad = s.npad := rfl
@[simp] theorem loadGroup_cfg (w : GroupWord) (a b c d : Sextet) : (s.loadGroup w a b c d).cfg = s.cfg := rfl
@[simp] theorem loadGroup_pending (w : GroupWord) (a b c d : Sextet) : (s.loadGroup w a b c d).pending = s.pending := rfl
@[simp] theorem loadGroup_readData (w : GroupWord) (a b c d : Sextet) : (s.loadGroup w a b c d).readData = s.readData := rfl
@[simp] theorem loadGroup_mapped (w : GroupWord) (a b c d : Sextet) : (s.loadGroup w a b c d).mapped = s.mapped := rfl
@[simp] theorem loadGroup_resets (w : GroupWord) (a b c d : Sextet) : (s.loadGroup w a b c d).resets = s.resets := rfl
@[simp] theorem loadGroup_starts (w : GroupWord) (a b c d : Sextet) : (s.loadGroup w a b c d).starts = s.starts := rfl

/-! ### emit -/

@[simp] theorem emit_rev (n : Nat) (out : List Byte) : (s.emit n out).rev = s.rev := rfl
@[simp] theorem emit_op (n : Nat) (out : List Byte) : (s.emit n out).op = s.op := rfl
@[simp] theorem emit_inLen (n : Nat) (out : List Byte) : (s.emit n out).inLen = s.inLen := rfl
@[simp] theorem emit_outLen (n : Nat) (out : List Byte) : (s.emit n out).outLen = s.outLen := rfl
@[simp] theorem emit_st (n : Nat) (out : List Byte) : (s.emit n out).st = s.st := rfl
@[simp] theorem emit_err (n : Nat) (out : List Byte) : (s.emit n out).err = s.err := rfl
@[simp] theorem emit_errPos (n : Nat) (out : List Byte) : (s.emit n out).errPos = s.errPos := rfl
@[simp] theorem emit_inBuf (n : Nat) (out : List Byte) : (s.emit n out).inBuf = s.inBuf := rfl
@[simp] theorem emit_outBuf (n : Nat) (out : List Byte) : (s.emit n out).outBuf = Memory.writeSeq s.outBuf s.optr out := rfl
@[simp] theorem emit_phase (n : Nat) (out : List Byte) : (s.emit n out).phase = s.phase := rfl
@[simp] theorem emit_iptr (n : Nat) (out : List Byte) : (s.emit n out).iptr = s.iptr + n := rfl
@[simp] theorem emit_optr (n : Nat) (out : List Byte) : (s.emit n out).optr = s.optr + out.length := rfl
@[simp] theorem emit_acc (n : Nat) (out : List Byte) : (s.emit n out).acc = s.acc := rfl
@[simp] theorem emit_v0 (n : Nat) (out : List Byte) : (s.emit n out).v0 = s.v0 := rfl
@[simp] theorem emit_v1 (n : Nat) (out : List Byte) : (s.emit n out).v1 = s.v1 := rfl
@[simp] theorem emit_v2 (n : Nat) (out : List Byte) : (s.emit n out).v2 = s.v2 := rfl
@[simp] theorem emit_v3 (n : Nat) (out : List Byte) : (s.emit n out).v3 = s.v3 := rfl
@[simp] theorem emit_npad (n : Nat) (out : List Byte) : (s.emit n out).npad = s.npad := rfl
@[simp] theorem emit_cfg (n : Nat) (out : List Byte) : (s.emit n out).cfg = s.cfg := rfl
@[simp] theorem emit_pending (n : Nat) (out : List Byte) : (s.emit n out).pending = s.pending := rfl
@[simp] theorem emit_readData (n : Nat) (out : List Byte) : (s.emit n out).readData = s.readData := rfl
@[simp] theorem emit_mapped (n : Nat) (out : List Byte) : (s.emit n out).mapped = s.mapped := rfl
@[simp] theorem emit_resets (n : Nat) (out : List Byte) : (s.emit n out).resets = s.resets := rfl
@[simp] theorem emit_starts (n : Nat) (out : List Byte) : (s.emit n out).starts = s.starts := rfl

/-! ### succeedWith -/

@[simp] theorem succeedWith_rev (out : List Byte) (p : Phase) (n : Nat) : (s.succeedWith out p n).rev = s.rev := rfl
@[simp] theorem succeedWith_op (out : List Byte) (p : Phase) (n : Nat) : (s.succeedWith out p n).op = s.op := rfl
@[simp] theorem succeedWith_inLen (out : List Byte) (p : Phase) (n : Nat) : (s.succeedWith out p n).inLen = s.inLen := rfl
@[simp] theorem succeedWith_outLen (out : List Byte) (p : Phase) (n : Nat) : (s.succeedWith out p n).outLen = out.length := rfl
@[simp] theorem succeedWith_st (out : List Byte) (p : Phase) (n : Nat) : (s.succeedWith out p n).st = .done := rfl
@[simp] theorem succeedWith_err (out : List Byte) (p : Phase) (n : Nat) : (s.succeedWith out p n).err = s.err := rfl
@[simp] theorem succeedWith_errPos (out : List Byte) (p : Phase) (n : Nat) : (s.succeedWith out p n).errPos = s.errPos := rfl
@[simp] theorem succeedWith_inBuf (out : List Byte) (p : Phase) (n : Nat) : (s.succeedWith out p n).inBuf = s.inBuf := rfl
@[simp] theorem succeedWith_outBuf (out : List Byte) (p : Phase) (n : Nat) : (s.succeedWith out p n).outBuf = Memory.writeSeq s.outBuf 0 out := rfl
@[simp] theorem succeedWith_phase (out : List Byte) (p : Phase) (n : Nat) : (s.succeedWith out p n).phase = p := rfl
@[simp] theorem succeedWith_iptr (out : List Byte) (p : Phase) (n : Nat) : (s.succeedWith out p n).iptr = s.inLen := rfl
@[simp] theorem succeedWith_optr (out : List Byte) (p : Phase) (n : Nat) : (s.succeedWith out p n).optr = out.length := rfl
@[simp] theorem succeedWith_acc (out : List Byte) (p : Phase) (n : Nat) : (s.succeedWith out p n).acc = s.acc := rfl
@[simp] theorem succeedWith_v0 (out : List Byte) (p : Phase) (n : Nat) : (s.succeedWith out p n).v0 = s.v0 := rfl
@[simp] theorem succeedWith_v1 (out : List Byte) (p : Phase) (n : Nat) : (s.succeedWith out p n).v1 = s.v1 := rfl
@[simp] theorem succeedWith_v2 (out : List Byte) (p : Phase) (n : Nat) : (s.succeedWith out p n).v2 = s.v2 := rfl
@[simp] theorem succeedWith_v3 (out : List Byte) (p : Phase) (n : Nat) : (s.succeedWith out p n).v3 = s.v3 := rfl
@[simp] theorem succeedWith_npad (out : List Byte) (p : Phase) (n : Nat) : (s.succeedWith out p n).npad = BitVec.ofNat 2 n := rfl
@[simp] theorem succeedWith_cfg (out : List Byte) (p : Phase) (n : Nat) : (s.succeedWith out p n).cfg = s.cfg := rfl
@[simp] theorem succeedWith_pending (out : List Byte) (p : Phase) (n : Nat) : (s.succeedWith out p n).pending = s.pending := rfl
@[simp] theorem succeedWith_readData (out : List Byte) (p : Phase) (n : Nat) : (s.succeedWith out p n).readData = s.readData := rfl
@[simp] theorem succeedWith_mapped (out : List Byte) (p : Phase) (n : Nat) : (s.succeedWith out p n).mapped = s.mapped := rfl
@[simp] theorem succeedWith_resets (out : List Byte) (p : Phase) (n : Nat) : (s.succeedWith out p n).resets = s.resets := rfl
@[simp] theorem succeedWith_starts (out : List Byte) (p : Phase) (n : Nat) : (s.succeedWith out p n).starts = s.starts := rfl

/-! ### failWith -/

@[simp] theorem failWith_rev (f : DecodeFailure) (t : List Byte) : (s.failWith f t).rev = s.rev := rfl
@[simp] theorem failWith_op (f : DecodeFailure) (t : List Byte) : (s.failWith f t).op = s.op := rfl
@[simp] theorem failWith_inLen (f : DecodeFailure) (t : List Byte) : (s.failWith f t).inLen = s.inLen := rfl
@[simp] theorem failWith_outLen (f : DecodeFailure) (t : List Byte) : (s.failWith f t).outLen = 0 := rfl
@[simp] theorem failWith_st (f : DecodeFailure) (t : List Byte) : (s.failWith f t).st = .done := rfl
@[simp] theorem failWith_err (f : DecodeFailure) (t : List Byte) : (s.failWith f t).err = f.kind := rfl
@[simp] theorem failWith_errPos (f : DecodeFailure) (t : List Byte) : (s.failWith f t).errPos = f.pos := rfl
@[simp] theorem failWith_inBuf (f : DecodeFailure) (t : List Byte) : (s.failWith f t).inBuf = s.inBuf := rfl
@[simp] theorem failWith_outBuf (f : DecodeFailure) (t : List Byte) : (s.failWith f t).outBuf = s.outBuf := rfl
@[simp] theorem failWith_phase (f : DecodeFailure) (t : List Byte) : (s.failWith f t).phase = failPhase f.kind := rfl
@[simp] theorem failWith_iptr (f : DecodeFailure) (t : List Byte) : (s.failWith f t).iptr = s.iptr := rfl
@[simp] theorem failWith_optr (f : DecodeFailure) (t : List Byte) : (s.failWith f t).optr = s.optr := rfl
@[simp] theorem failWith_acc (f : DecodeFailure) (t : List Byte) : (s.failWith f t).acc = s.acc := rfl
@[simp] theorem failWith_v0 (f : DecodeFailure) (t : List Byte) : (s.failWith f t).v0 = s.v0 := rfl
@[simp] theorem failWith_v1 (f : DecodeFailure) (t : List Byte) : (s.failWith f t).v1 = s.v1 := rfl
@[simp] theorem failWith_v2 (f : DecodeFailure) (t : List Byte) : (s.failWith f t).v2 = s.v2 := rfl
@[simp] theorem failWith_v3 (f : DecodeFailure) (t : List Byte) : (s.failWith f t).v3 = s.v3 := rfl
@[simp] theorem failWith_npad (f : DecodeFailure) (t : List Byte) : (s.failWith f t).npad = BitVec.ofNat 2 (failPads f.kind t) := rfl
@[simp] theorem failWith_cfg (f : DecodeFailure) (t : List Byte) : (s.failWith f t).cfg = s.cfg := rfl
@[simp] theorem failWith_pending (f : DecodeFailure) (t : List Byte) : (s.failWith f t).pending = s.pending := rfl
@[simp] theorem failWith_readData (f : DecodeFailure) (t : List Byte) : (s.failWith f t).readData = s.readData := rfl
@[simp] theorem failWith_mapped (f : DecodeFailure) (t : List Byte) : (s.failWith f t).mapped = s.mapped := rfl
@[simp] theorem failWith_resets (f : DecodeFailure) (t : List Byte) : (s.failWith f t).resets = s.resets := rfl
@[simp] theorem failWith_starts (f : DecodeFailure) (t : List Byte) : (s.failWith f t).starts = s.starts := rfl

/-! ### resetRegs -/

@[simp] theorem resetRegs_rev : (s.resetRegs).rev = s.rev := rfl
@[simp] theorem resetRegs_op : (s.resetRegs).op = 0 := rfl
@[simp] theorem resetRegs_inLen : (s.resetRegs).inLen = 0 := rfl
@[simp] theorem resetRegs_outLen : (s.resetRegs).outLen = 0 := rfl
@[simp] theorem resetRegs_st : (s.resetRegs).st = .idle := rfl
@[simp] theorem resetRegs_err : (s.resetRegs).err = .none := rfl
@[simp] theorem resetRegs_errPos : (s.resetRegs).errPos = 0 := rfl
@[simp] theorem resetRegs_inBuf : (s.resetRegs).inBuf = [] := rfl
@[simp] theorem resetRegs_outBuf : (s.resetRegs).outBuf = [] := rfl
@[simp] theorem resetRegs_phase : (s.resetRegs).phase = .pEnc := rfl
@[simp] theorem resetRegs_iptr : (s.resetRegs).iptr = 0 := rfl
@[simp] theorem resetRegs_optr : (s.resetRegs).optr = 0 := rfl
@[simp] theorem resetRegs_acc : (s.resetRegs).acc = 0 := rfl
@[simp] theorem resetRegs_v0 : (s.resetRegs).v0 = 0 := rfl
@[simp] theorem resetRegs_v1 : (s.resetRegs).v1 = 0 := rfl
@[simp] theorem resetRegs_v2 : (s.resetRegs).v2 = 0 := rfl
@[simp] theorem resetRegs_v3 : (s.resetRegs).v3 = 0 := rfl
@[simp] theorem resetRegs_npad : (s.resetRegs).npad = 0 := rfl
@[simp] theorem resetRegs_cfg : (s.resetRegs).cfg = s.cfg := rfl
@[simp] theorem resetRegs_pending : (s.resetRegs).pending = s.pending := rfl
@[simp] theorem resetRegs_readData : (s.resetRegs).readData = s.readData := rfl
@[simp] theorem resetRegs_mapped : (s.resetRegs).mapped = s.mapped := rfl
@[simp] theorem resetRegs_resets : (s.resetRegs).resets = s.resets + 1 := rfl
@[simp] theorem resetRegs_starts : (s.resetRegs).starts = s.starts := rfl

/-! ### deliver -/

@[simp] theorem deliver_rev (v : HostValue) : (s.deliver v).rev = s.rev := rfl
@[simp] theorem deliver_op (v : HostValue) : (s.deliver v).op = s.op := rfl
@[simp] theorem deliver_inLen (v : HostValue) : (s.deliver v).inLen = s.inLen := rfl
@[simp] theorem deliver_outLen (v : HostValue) : (s.deliver v).outLen = s.outLen := rfl
@[simp] theorem deliver_st (v : HostValue) : (s.deliver v).st = s.st := rfl
@[simp] theorem deliver_err (v : HostValue) : (s.deliver v).err = s.err := rfl
@[simp] theorem deliver_errPos (v : HostValue) : (s.deliver v).errPos = s.errPos := rfl
@[simp] theorem deliver_inBuf (v : HostValue) : (s.deliver v).inBuf = s.inBuf := rfl
@[simp] theorem deliver_outBuf (v : HostValue) : (s.deliver v).outBuf = s.outBuf := rfl
@[simp] theorem deliver_phase (v : HostValue) : (s.deliver v).phase = s.phase := rfl
@[simp] theorem deliver_iptr (v : HostValue) : (s.deliver v).iptr = s.iptr := rfl
@[simp] theorem deliver_optr (v : HostValue) : (s.deliver v).optr = s.optr := rfl
@[simp] theorem deliver_acc (v : HostValue) : (s.deliver v).acc = s.acc := rfl
@[simp] theorem deliver_v0 (v : HostValue) : (s.deliver v).v0 = s.v0 := rfl
@[simp] theorem deliver_v1 (v : HostValue) : (s.deliver v).v1 = s.v1 := rfl
@[simp] theorem deliver_v2 (v : HostValue) : (s.deliver v).v2 = s.v2 := rfl
@[simp] theorem deliver_v3 (v : HostValue) : (s.deliver v).v3 = s.v3 := rfl
@[simp] theorem deliver_npad (v : HostValue) : (s.deliver v).npad = s.npad := rfl
@[simp] theorem deliver_cfg (v : HostValue) : (s.deliver v).cfg = s.cfg := rfl
@[simp] theorem deliver_pending (v : HostValue) : (s.deliver v).pending = s.pending := rfl
@[simp] theorem deliver_readData (v : HostValue) : (s.deliver v).readData = some v := rfl
@[simp] theorem deliver_mapped (v : HostValue) : (s.deliver v).mapped = s.mapped := rfl
@[simp] theorem deliver_resets (v : HostValue) : (s.deliver v).resets = s.resets := rfl
@[simp] theorem deliver_starts (v : HostValue) : (s.deliver v).starts = s.starts := rfl

/-! ### showMapping -/

@[simp] theorem showMapping_rev (m : Mapping) : (s.showMapping m).rev = s.rev := rfl
@[simp] theorem showMapping_op (m : Mapping) : (s.showMapping m).op = s.op := rfl
@[simp] theorem showMapping_inLen (m : Mapping) : (s.showMapping m).inLen = s.inLen := rfl
@[simp] theorem showMapping_outLen (m : Mapping) : (s.showMapping m).outLen = s.outLen := rfl
@[simp] theorem showMapping_st (m : Mapping) : (s.showMapping m).st = s.st := rfl
@[simp] theorem showMapping_err (m : Mapping) : (s.showMapping m).err = s.err := rfl
@[simp] theorem showMapping_errPos (m : Mapping) : (s.showMapping m).errPos = s.errPos := rfl
@[simp] theorem showMapping_inBuf (m : Mapping) : (s.showMapping m).inBuf = s.inBuf := rfl
@[simp] theorem showMapping_outBuf (m : Mapping) : (s.showMapping m).outBuf = s.outBuf := rfl
@[simp] theorem showMapping_phase (m : Mapping) : (s.showMapping m).phase = s.phase := rfl
@[simp] theorem showMapping_iptr (m : Mapping) : (s.showMapping m).iptr = s.iptr := rfl
@[simp] theorem showMapping_optr (m : Mapping) : (s.showMapping m).optr = s.optr := rfl
@[simp] theorem showMapping_acc (m : Mapping) : (s.showMapping m).acc = s.acc := rfl
@[simp] theorem showMapping_v0 (m : Mapping) : (s.showMapping m).v0 = s.v0 := rfl
@[simp] theorem showMapping_v1 (m : Mapping) : (s.showMapping m).v1 = s.v1 := rfl
@[simp] theorem showMapping_v2 (m : Mapping) : (s.showMapping m).v2 = s.v2 := rfl
@[simp] theorem showMapping_v3 (m : Mapping) : (s.showMapping m).v3 = s.v3 := rfl
@[simp] theorem showMapping_npad (m : Mapping) : (s.showMapping m).npad = s.npad := rfl
@[simp] theorem showMapping_cfg (m : Mapping) : (s.showMapping m).cfg = s.cfg := rfl
@[simp] theorem showMapping_pending (m : Mapping) : (s.showMapping m).pending = s.pending := rfl
@[simp] theorem showMapping_readData (m : Mapping) : (s.showMapping m).readData = s.readData := rfl
@[simp] theorem showMapping_mapped (m : Mapping) : (s.showMapping m).mapped = some m := rfl
@[simp] theorem showMapping_resets (m : Mapping) : (s.showMapping m).resets = s.resets := rfl
@[simp] theorem showMapping_starts (m : Mapping) : (s.showMapping m).starts = s.starts := rfl

/-! ### pop: only `pending` changes -/

@[simp] theorem pop_rev : s.pop.rev = s.rev := by
  unfold State.pop; split <;> [rfl; (split <;> rfl); rfl]
@[simp] theorem pop_op : s.pop.op = s.op := by
  unfold State.pop; split <;> [rfl; (split <;> rfl); rfl]
@[simp] theorem pop_inLen : s.pop.inLen = s.inLen := by
  unfold State.pop; split <;> [rfl; (split <;> rfl); rfl]
@[simp] theorem pop_outLen : s.pop.outLen = s.outLen := by
  unfold State.pop; split <;> [rfl; (split <;> rfl); rfl]
@[simp] theorem pop_st : s.pop.st = s.st := by
  unfold State.pop; split <;> [rfl; (split <;> rfl); rfl]
@[simp] theorem pop_err : s.pop.err = s.err := by
  unfold State.pop; split <;> [rfl; (split <;> rfl); rfl]
@[simp] theorem pop_errPos : s.pop.errPos = s.errPos := by
  unfold State.pop; split <;> [rfl; (split <;> rfl); rfl]
@[simp] theorem pop_inBuf : s.pop.inBuf = s.inBuf := by
  unfold State.pop; split <;> [rfl; (split <;> rfl); rfl]
@[simp] theorem pop_outBuf : s.pop.outBuf = s.outBuf := by
  unfold State.pop; split <;> [rfl; (split <;> rfl); rfl]
@[simp] theorem pop_phase : s.pop.phase = s.phase := by
  unfold State.pop; split <;> [rfl; (split <;> rfl); rfl]
@[simp] theorem pop_iptr : s.pop.iptr = s.iptr := by
  unfold State.pop; split <;> [rfl; (split <;> rfl); rfl]
@[simp] theorem pop_optr : s.pop.optr = s.optr := by
  unfold State.pop; split <;> [rfl; (split <;> rfl); rfl]
@[simp] theorem pop_acc : s.pop.acc = s.acc := by
  unfold State.pop; split <;> [rfl; (split <;> rfl); rfl]
@[simp] theorem pop_v0 : s.pop.v0 = s.v0 := by
  unfold State.pop; split <;> [rfl; (split <;> rfl); rfl]
@[simp] theorem pop_v1 : s.pop.v1 = s.v1 := by
  unfold State.pop; split <;> [rfl; (split <;> rfl); rfl]
@[simp] theorem pop_v2 : s.pop.v2 = s.v2 := by
  unfold State.pop; split <;> [rfl; (split <;> rfl); rfl]
@[simp] theorem pop_v3 : s.pop.v3 = s.v3 := by
  unfold State.pop; split <;> [rfl; (split <;> rfl); rfl]
@[simp] theorem pop_npad : s.pop.npad = s.npad := by
  unfold State.pop; split <;> [rfl; (split <;> rfl); rfl]
@[simp] theorem pop_cfg : s.pop.cfg = s.cfg := by
  unfold State.pop; split <;> [rfl; (split <;> rfl); rfl]
@[simp] theorem pop_readData : s.pop.readData = s.readData := by
  unfold State.pop; split <;> [rfl; (split <;> rfl); rfl]
@[simp] theorem pop_mapped : s.pop.mapped = s.mapped := by
  unfold State.pop; split <;> [rfl; (split <;> rfl); rfl]
@[simp] theorem pop_resets : s.pop.resets = s.resets := by
  unfold State.pop; split <;> [rfl; (split <;> rfl); rfl]
@[simp] theorem pop_starts : s.pop.starts = s.starts := by
  unfold State.pop; split <;> [rfl; (split <;> rfl); rfl]

end Sys2Proof.Machine
end

