-- ==== Sys2Proof/Laws/Sequencer.lean ====
section
/-! SUPPORT. What the shared operations answer: the reads of `IN`, the group step, the input of a START,
and the step of a block whose host is quiet. -/

namespace Sys2Proof.Machine

/-! ## Capacities -/

@[simp] theorem fits_none (n : Nat) : fits none n = true := rfl

theorem fits_mono {cap : Option Nat} {m n : Nat} (h : fits cap n = true) (hmn : m ≤ n) :
    fits cap m = true := by
  cases cap with
  | none => rfl
  | some c =>
    simp only [fits, decide_eq_true_eq] at *
    omega

/-! ## Reads of `IN` -/

theorem readIn_eq_ok {s : State} {a : Nat} {v : Byte} :
    s.readIn a = .ok v ↔ fits s.cfg.capIn (a + 1) = true ∧ Memory.read s.inBuf a = some v := by
  unfold State.readIn
  by_cases h : fits s.cfg.capIn (a + 1) = true
  · simp only [h, if_true, true_and]
    split
    · rename_i w hw
      simp [hw]
    · rename_i hn
      simp [hn]
  · simp [h]

/-- A run of reads answers exactly when every element exists and is written. -/
theorem readInSeq_eq_ok {s : State} {a n : Nat} {vs : List Byte} :
    s.readInSeq a n = .ok vs ↔
      (n ≠ 0 → fits s.cfg.capIn (a + n) = true) ∧ Memory.readSeq s.inBuf a n = some vs := by
  induction n generalizing a vs with
  | zero => simp [State.readInSeq, Memory.readSeq]
  | succ n ih =>
    simp only [State.readInSeq, Memory.readSeq, ne_eq, Nat.add_eq_zero_iff, one_ne_zero, and_false,
      not_false_eq_true, forall_const]
    cases h : s.readIn a with
    | error f =>
      simp only [reduceCtorEq, false_iff, not_and]
      intro hf hr
      split at hr
      · rename_i v w hv hw
        rw [readIn_eq_ok.2 ⟨fits_mono hf (by omega), hv⟩] at h
        cases h
      · cases hr
    | ok v =>
      obtain ⟨hf, hv⟩ := readIn_eq_ok.1 h
      simp only [hv]
      cases h2 : s.readInSeq (a + 1) n with
      | error f =>
        simp only [reduceCtorEq, false_iff, not_and]
        intro hfn hr
        split at hr
        · rename_i v' w _ hw
          rw [ih.2 ⟨fun _ => fits_mono hfn (by omega), hw⟩] at h2
          cases h2
        · cases hr
      | ok ws =>
        obtain ⟨hfn, hws⟩ := ih.1 h2
        simp only [hws, Except.ok.injEq, Option.some.injEq, iff_and_self]
        intro _
        rcases Nat.eq_zero_or_pos n with rfl | hn
        · exact hf
        · exact fits_mono (hfn (by omega)) (by omega)

theorem readInSeq_congr {s t : State} (hc : t.cfg = s.cfg) (hi : t.inBuf = s.inBuf) (a n : Nat) :
    t.readInSeq a n = s.readInSeq a n := by
  induction n generalizing a with
  | zero => rfl
  | succ n ih => simp only [State.readInSeq, State.readIn, hc, hi, ih]

@[simp] theorem pop_readInSeq (s : State) (a n : Nat) : s.pop.readInSeq a n = s.readInSeq a n :=
  readInSeq_congr (pop_cfg s) (pop_inBuf s) a n

@[simp] theorem pop_readText (s : State) : s.pop.readText = s.readText := by
  simp [State.readText]

theorem hasInput_iff {s : State} {input : List Byte} :
    s.HasInput input ↔ s.inputSeq = some input ∧ fits s.cfg.capIn s.inLen = true := by
  unfold State.HasInput State.inputSeq
  rw [Memory.readSeq_eq_some]
  constructor
  · rintro ⟨hl, hr, hf⟩
    exact ⟨⟨hl.symm, fun i hi => by simpa using hr i (hl ▸ hi)⟩, hl ▸ hf⟩
  · rintro ⟨⟨hl, hr⟩, hf⟩
    exact ⟨hl.symm, fun i hi => by simpa using hr i (hl ▸ hi), hl ▸ hf⟩

/-- CHKPAD and CHKCHR read the whole input. -/
theorem State.HasInput.readText {s : State} {input : List Byte} (h : s.HasInput input) :
    s.readText = .ok input :=
  readInSeq_eq_ok.2 ⟨fun _ => by simpa using (hasInput_iff.1 h).2, (hasInput_iff.1 h).1⟩

/-- The elements of a written input, read from the middle. -/
theorem State.HasInput.readSeq {s : State} {input : List Byte} (h : s.HasInput input) {a n : Nat}
    (hn : a + n ≤ input.length) :
    Memory.readSeq s.inBuf a n = some ((input.drop a).take n) := by
  refine Memory.readSeq_eq_some.2 ⟨by simp; omega, fun i hi => ?_⟩
  rw [h.2.1 _ (by omega), List.getElem?_take_of_lt hi, List.getElem?_drop]

/-! ## The group step -/

/-- A group step answers a next state exactly when its output fits, and then this one. -/
theorem groupStep_next {s : State} {w : GroupWord} {v0 v1 v2 v3 : Sextet} {n : Nat}
    {out : List Byte} (h : fits s.cfg.capOut (s.optr + out.length) = true) :
    s.groupStep w v0 v1 v2 v3 n out = .next ((s.loadGroup w v0 v1 v2 v3).emit n out) := by
  simp [State.groupStep, h]

theorem groupStep_cases {s t : State} {w : GroupWord} {v0 v1 v2 v3 : Sextet} {n : Nat}
    {out : List Byte} (h : s.groupStep w v0 v1 v2 v3 n out = .next t) :
    fits s.cfg.capOut (s.optr + out.length) = true ∧
      t = (s.loadGroup w v0 v1 v2 v3).emit n out := by
  unfold State.groupStep at h
  split at h
  · rename_i hf
    exact ⟨hf, by injection h with h; exact h.symm⟩
  · cases h

/-! ## The input of a START -/

/-- A START of an operation that reads its input is given it exactly when the host has written it and both
capacities suffice. -/
theorem acceptInput_eq_ok {s : State} {op : OpCode} {input : List Byte} (h : s.readsInput op = true) :
    s.acceptInput op = .ok input ↔
      s.HasInput input ∧ fits s.cfg.capOut (resultLength s.rev op input) = true := by
  rw [hasInput_iff]
  unfold State.acceptInput
  by_cases hf : fits s.cfg.capIn s.inLen = true
  · simp only [hf, h, if_true, and_true]
    cases hi : s.inputSeq with
    | none => simp
    | some vs =>
      by_cases hr : fits s.cfg.capOut (resultLength s.rev op vs) = true
      · simp only [hr, if_true, Except.ok.injEq, Option.some.injEq, iff_self_and]
        rintro rfl
        exact hr
      · simp only [hr, Bool.false_eq_true, if_false, reduceCtorEq, Option.some.injEq, false_iff, not_and]
        rintro rfl
        exact hr
  · simp [hf]

/-- A START of an operation that reads no element is accepted whatever `IN` holds. -/
theorem acceptInput_unread {s : State} {op : OpCode} (h : s.readsInput op = false) :
    s.acceptInput op = if fits s.cfg.capIn s.inLen then .ok [] else .error .overCapacity := by
  simp [State.acceptInput, h]

/-- Over a written input within the capacities every operation is accepted. -/
theorem State.HasInput.accept {s : State} {op : OpCode} {input : List Byte} (h : s.HasInput input)
    (hf : fits s.cfg.capOut (resultLength s.rev op input) = true) :
    s.acceptInput op = .ok (if s.readsInput op then input else []) := by
  cases hr : s.readsInput op with
  | true => simpa using (acceptInput_eq_ok hr).2 ⟨h, hf⟩
  | false => simp [acceptInput_unread hr, (hasInput_iff.1 h).2]

/-! ## The whole DECODE -/

/-- `decode(T)` ends in InvalidLength by its length alone. -/
theorem decodeText_badLength {rev : Rev} {text : List Byte} (h : text.length % 4 ≠ 0) :
    decodeText rev text = .error { kind := .invalidLength, pos := 0 } := by
  simp [decodeText, h]

/-- A DECODE whose `IN_LEN` is no multiple of 4 reads no element. -/
theorem execDecode_badLength {s : State} (hb : s.st ≠ .busy) (hc : fits s.cfg.capIn s.inLen = true)
    (h : s.inLen % 4 ≠ 0) :
    execDecode s =
      .next ((s.beginOperation 1).failWith { kind := .invalidLength, pos := 0 } []) := by
  unfold execDecode
  rw [if_neg hb, acceptInput_unread (by simp [State.readsInput, h])]
  simp [hc, h]

/-- A DECODE over a written text within the capacities. -/
theorem execDecode_eq {s : State} {text : List Byte} (hb : s.st ≠ .busy) (hi : s.HasInput text)
    (hf : fits s.cfg.capOut (resultLength s.rev 1 text) = true) :
    execDecode s = .next (s.endDecode text) := by
  by_cases h : s.inLen % 4 = 0
  · unfold execDecode
    rw [if_neg hb, hi.accept hf]
    simp only [State.readsInput, h, decide_true, Bool.or_true, if_true, ne_eq, not_true, if_false]
  · rw [execDecode_badLength hb (hasInput_iff.1 hi).2 h, State.endDecode,
      decodeText_badLength (hi.1 ▸ h)]
    rfl

/-- Everything a DECODE that answers a next state can do. -/
theorem execDecode_cases {s t : State} (hb : s.st ≠ .busy) (h : execDecode s = .next t) :
    (s.inLen % 4 ≠ 0 ∧ t = (s.beginOperation 1).failWith { kind := .invalidLength, pos := 0 } []) ∨
    ∃ text, s.HasInput text ∧ fits s.cfg.capOut (resultLength s.rev 1 text) = true ∧
      t = s.endDecode text := by
  by_cases hl : s.inLen % 4 = 0
  · right
    have hr : s.readsInput 1 = true := by simp [State.readsInput, hl]
    cases ha : s.acceptInput 1 with
    | error r =>
      unfold execDecode at h
      rw [if_neg hb, ha] at h
      cases h
    | ok text =>
      obtain ⟨hi, hf⟩ := (acceptInput_eq_ok hr).1 ha
      refine ⟨text, hi, hf, ?_⟩
      rw [execDecode_eq hb hi hf] at h
      injection h with h
      exact h.symm
  · left
    refine ⟨hl, ?_⟩
    by_cases hc : fits s.cfg.capIn s.inLen = true
    · rw [execDecode_badLength hb hc hl] at h
      injection h with h
      exact h.symm
    · unfold execDecode at h
      rw [if_neg hb, acceptInput_unread (by simp [State.readsInput, hl]), if_neg hc] at h
      cases h

/-! ## The step of a block whose host is quiet -/

theorem hostQuiet_activity {s : State} (h : s.hostQuiet = true) : s.activity = s.sequencer := by
  unfold State.hostQuiet at h
  unfold State.activity
  cases hp : s.pending with
  | nil => rfl
  | cons e rest =>
    rw [hp] at h
    cases e <;> first | rfl | simp at h

/-- A quiet step of a `BUSY` block is the sequencer's step. -/
theorem quiet_step {s : State} (h : s.hostQuiet = true) (hb : s.st = .busy) :
    step s = perform s.selectStep s.pop := by
  unfold step
  rw [hostQuiet_activity h, State.sequencer, if_pos hb]

/-- A run of the group at `IPTR` that is written is fetched. -/
theorem fetchRun_eq {s : State} {n : Nat} {vs : List Byte} (pack : List Byte → Packet)
    (hf : fits s.cfg.capIn (s.iptr + n) = true) (hr : Memory.readSeq s.inBuf s.iptr n = some vs) :
    s.fetchRun n pack = .run (pack vs) := by
  unfold State.fetchRun
  rw [readInSeq_eq_ok.2 ⟨fun _ => hf, hr⟩]

end Sys2Proof.Machine
end

