-- ==== Sys2Proof/Laws/Steps.lean ====
section
/-! SUPPORT. A group step as the sequencer takes it, in terms of the two functions; and which rows a
character code decodes to. -/

namespace Sys2Proof.Machine

/-- An input stays the input of every state with the same `IN`, `IN_LEN` and capacities. -/
theorem State.HasInput.congr {s t : State} {input : List Byte} (h : s.HasInput input)
    (hl : t.inLen = s.inLen) (hb : t.inBuf = s.inBuf) (hc : t.cfg = s.cfg) : t.HasInput input := by
  unfold State.HasInput at *
  rw [hl, hb, hc]
  exact h

theorem pop_of_pending_nil {s : State} (h : s.pending = []) : s.pop = s := by
  unfold State.pop
  rw [h]

theorem hostQuiet_of_pending_nil {s : State} (h : s.pending = []) : s.hostQuiet = true := by
  unfold State.hostQuiet
  rw [h]

/-- One group step of an ENCODE: the next run of at most three bytes, encoded (R81, R82, R83). -/
theorem encode_group_step {s : State} {input : List Byte} (hq : s.hostQuiet = true)
    (hb : s.st = .busy) (hp : s.phase = .pEnc) (hi : s.HasInput input) (hl : s.iptr < input.length)
    (hf : fits s.cfg.capOut (s.optr + 4) = true) :
    ∃ w v0 v1 v2 v3, step s = .next ((s.pop.loadGroup w v0 v1 v2 v3).emit
      ((input.drop s.iptr).take 3).length (encodeBytes ((input.drop s.iptr).take 3))) := by
  have hlen := hi.1
  rw [quiet_step hq hb]
  simp only [State.selectStep, hp, State.selectEncode]
  rw [if_neg (by omega), if_neg (by omega)]
  have hr := hi.readSeq (a := s.iptr) (n := min 3 (s.inLen - s.iptr)) (by omega)
  have hd : (input.drop s.iptr).take (min 3 (s.inLen - s.iptr)) = (input.drop s.iptr).take 3 := by
    rw [List.take_eq_take_iff]
    simp
    omega
  rw [hd] at hr
  rw [fetchRun_eq _ (fits_mono hi.2.2 (by omega)) hr]
  have h3 : ((input.drop s.iptr).take 3).length = min 3 (s.inLen - s.iptr) := by
    simp
    omega
  generalize (input.drop s.iptr).take 3 = run at *
  refine ⟨groupOfRun run, sextet0 (groupOfRun run), sextet1 (groupOfRun run),
    sextet2 (groupOfRun run), sextet3 (groupOfRun run), ?_⟩
  match run, h3 with
  | [], h3 =>
    simp at h3
    omega
  | [b0], h3 =>
    simp only [perform, runPacket, decode, decodeGroup, List.length_cons, List.length_nil, groupOfRun,
      byte0_groupOfBytes, byte1_groupOfBytes, byte2_groupOfBytes, and_self, if_true]
    exact groupStep_next (by simpa [enc1Chars] using hf)
  | [b0, b1], h3 =>
    simp only [perform, runPacket, decode, decodeGroup, List.length_cons, List.length_nil, groupOfRun,
      byte0_groupOfBytes, byte1_groupOfBytes, byte2_groupOfBytes, if_true]
    exact groupStep_next (by simpa [enc2Chars] using hf)
  | [b0, b1, b2], h3 =>
    simp only [perform, runPacket, decode, decodeGroup, List.length_cons, List.length_nil, groupOfRun,
      byte0_groupOfBytes, byte1_groupOfBytes, byte2_groupOfBytes]
    exact groupStep_next (by simpa [enc3Chars] using hf)
  | _ :: _ :: _ :: _ :: _, h3 =>
    simp at h3
    omega

theorem groupStep_exists {s : State} {w v0 v1 v2 v3 n out}
    (h : fits s.cfg.capOut (s.optr + out.length) = true) :
    ∃ w' u0 u1 u2 u3, s.groupStep w v0 v1 v2 v3 n out =
      .next ((s.loadGroup w' u0 u1 u2 u3).emit n out) :=
  ⟨w, v0, v1, v2, v3, groupStep_next h⟩

/-- One group step of a DECODE: the next four characters, decoded (R104, R105, R106). -/
theorem decode_group_step {s : State} {text : List Byte} (hq : s.hostQuiet = true)
    (hb : s.st = .busy) (hp : s.phase = .pDec) (hi : s.HasInput text)
    (hl : s.iptr + 4 ≤ text.length)
    (hf : fits s.cfg.capOut
      (s.optr + (decodeGroups s.rev ((text.drop s.iptr).take 4)).length) = true) :
    ∃ w v0 v1 v2 v3, step s = .next ((s.pop.loadGroup w v0 v1 v2 v3).emit 4
      (decodeGroups s.rev ((text.drop s.iptr).take 4))) := by
  have hlen := hi.1
  rw [quiet_step hq hb]
  simp only [State.selectStep, hp, State.selectDecode]
  rw [if_neg (by omega), if_neg (by omega)]
  have hr := hi.readSeq (a := s.iptr) (n := 4) (by omega)
  rw [fetchRun_eq _ (fits_mono hi.2.2 (by omega)) hr]
  have h3 : ((text.drop s.iptr).take 4).length = 4 := by
    simp
    omega
  generalize (text.drop s.iptr).take 4 = run at *
  match run, h3 with
  | [c0, c1, c2, c3], _ =>
    simp only [perform, runPacket, decode, decodeChars, charsOfRun, char0_wordOfChars,
      char1_wordOfChars, char2_wordOfChars, char3_wordOfChars]
    simp only [decodeGroups, List.append_nil, decodeGroupBytes] at hf ⊢
    split_ifs with g1 g2
    · rw [if_pos g1] at hf
      rw [show dec4Bytes s.rev = dec4Bytes s.pop.rev by rw [pop_rev]]
      exact groupStep_exists (s := s.pop) (by simpa [dec4Bytes] using hf)
    · rw [if_neg g1, if_pos g2] at hf
      rw [show dec3Bytes s.rev = dec3Bytes s.pop.rev by rw [pop_rev]]
      exact groupStep_exists (s := s.pop) (by simpa [dec3Bytes] using hf)
    · rw [if_neg g1, if_neg g2] at hf
      rw [show dec2Bytes s.rev = dec2Bytes s.pop.rev by rw [pop_rev]]
      exact groupStep_exists (s := s.pop) (by simpa [dec2Bytes] using hf)

/-- A character code decodes to a symbol row or to the pad. -/
theorem decodeSym_row {c : Byte} {i : Instr} (h : decodeSym c = .ok i) :
    (symbolIndex i).isSome = true ∨ i = .pad := by
  have key : ∀ l : List (Byte × Instr),
      (∀ e ∈ l, (symbolIndex e.2).isSome = true ∨ e.2 = .pad) → rowOfCode c l = some i →
      (symbolIndex i).isSome = true ∨ i = .pad := by
    intro l
    induction l with
    | nil => nofun
    | cons e l ih =>
      intro hl h
      unfold rowOfCode at h
      split at h
      · cases h
        exact hl e (List.mem_cons_self ..)
      · exact ih (fun d hd => hl d (List.mem_cons_of_mem _ hd)) h
  unfold decodeSym at h
  split at h <;> cases h
  exact key symRows (by decide) ‹_›

/-- Only reset runs BUILD_REV (R67). -/
theorem decode_eq_buildRev {p : Packet} (h : decode p = .ok .buildRev) : p = .reset := by
  cases p with
  | reset => rfl
  | hostcmd => cases h
  | cmd w => simp only [decode] at h; split at h <;> cases h
  | step r => cases r <;> cases h
  | g24 n w =>
    simp only [decode, decodeGroup] at h
    split at h
    · cases h
    · split at h <;> cases h
    · split at h <;> cases h
    · cases h
  | c32 w =>
    simp only [decode, decodeChars] at h
    split at h
    · cases h
    · split at h <;> cases h
  | index i => cases h
  | code c => cases h
  | sym c => rcases decodeSym_row h with h | h <;> cases h

end Sys2Proof.Machine
end

