-- ==== Sys2Proof/Tests/Slice0.lean ====
section
/-! SUPPORT. The model's own tests. Expected results are those of spec/95_test_vectors.md (rows A, B, E, H,
programs P) or worked out by hand from the rule named. The second half gives, for every statement of
Certificates/Slice0/Obligations.lean that has hypotheses, a concrete state and operands that meet them. -/

namespace Sys2Proof.Tests

open Machine

/-! ## Helpers -/

/-- A block with `input` written and `IN_LEN` set, `ST = IDLE`. -/
def holding (op : OpCode) (input : List Byte) : State :=
  { State.reset with op := op, inLen := input.length, inBuf := Memory.writeSeq [] 0 input }

/-- The same block while it is `BUSY` in phase `p`. -/
def busyIn (p : Phase) (input : List Byte) (iptr optr : Nat) : State :=
  { holding (if p = .pEnc then 0 else 1) input with st := .busy, phase := p, iptr := iptr, optr := optr }

/-- What `f` sees of the next state. -/
def seen {α : Type} (o : Host.Outcome State Fault Refusal) (f : State → α) : Option α :=
  (nextState o).map f

/-- The group registers. -/
def group (s : State) : GroupWord × Sextet × Sextet × Sextet × Sextet :=
  (s.acc, s.v0, s.v1, s.v2, s.v3)

/-- Both pointers and the written elements of `OUT`. -/
def moved (s : State) : Nat × Nat × Memory := (s.iptr, s.optr, s.outBuf)

/-- The result registers. -/
def ended (s : State) : St × Err × Nat × Nat := (s.st, s.err, s.errPos, s.outLen)

/-- "TWFu", "TWE=", "TQ==", "TWFuTQ==", "TQ==TWFu", "TW!u" (V2, V3, V4, B5, V5c, E20). -/
def textTWFu : List Byte := [0x54, 0x57, 0x46, 0x75]
def textTWE : List Byte := [0x54, 0x57, 0x45, 0x3D]
def textTQ : List Byte := [0x54, 0x51, 0x3D, 0x3D]
def textB5 : List Byte := [0x54, 0x57, 0x46, 0x75, 0x54, 0x51, 0x3D, 0x3D]
def textV5c : List Byte := [0x54, 0x51, 0x3D, 0x3D, 0x54, 0x57, 0x46, 0x75]
def textE20 : List Byte := [0x54, 0x57, 0x21, 0x75]

/-! ## WellFormed: the ill-formed terms it refuses -/

/-- DEC4 with a pad as its last character (R104). -/
theorem test_wf_refuses_dec4_pad : (Instr.dec4 0x41 0x41 0x41 0x3D).wf = false := by decide
/-- DEC3 with a pad as its third character: the DEC2 pattern takes precedence (R105). -/
theorem test_wf_refuses_dec3_pad : (Instr.dec3 0x41 0x41 0x3D).wf = false := by decide
theorem test_wf_takes_dec4 : (Instr.dec4 0x41 0x41 0x41 0x41).wf = true := by decide
theorem test_wf_takes_dec3 : (Instr.dec3 0x41 0x41 0x41).wf = true := by decide

/-! ## Decode: words written out from the spec's formats -/

/-- G24: B0 in bits 23:16, B1 in 15:8, B2 in 7:0 (R46). -/
theorem test_decode_enc3 :
    decode (.g24 3 0b000000010000001000000011) = .ok (.enc3 0x01 0x02 0x03) := by decide
theorem test_decode_enc2 :
    decode (.g24 2 0b000000010000001000000000) = .ok (.enc2 0x01 0x02) := by decide
theorem test_decode_enc1 :
    decode (.g24 1 0b000000010000000000000000) = .ok (.enc1 0x01) := by decide
/-- The absent bytes of a remainder group are 0 (R82, R83); a group has one to three bytes (R4). -/
theorem test_decode_rejects_groups :
    decode (.g24 2 0b000000010000001000000011) = .error .absentByteNotZero ∧
    decode (.g24 1 0b000000010000001000000000) = .error .absentByteNotZero ∧
    decode (.g24 0 0) = .error (.badGroupSize 0) ∧ decode (.g24 4 0) = .error (.badGroupSize 4) := by
  decide
/-- C32: c0 in bits 31:24, c1 in 23:16, c2 in 15:8, c3 in 7:0 (R49). -/
theorem test_decode_dec4 :
    decode (.c32 0b01000001010000100100001101000100) = .ok (.dec4 0x41 0x42 0x43 0x44) := by decide
theorem test_decode_dec3 :
    decode (.c32 0b01000001010000100100001100111101) = .ok (.dec3 0x41 0x42 0x43) := by decide
theorem test_decode_dec2 :
    decode (.c32 0b01000001010000100011110100111101) = .ok (.dec2 0x41 0x42) := by decide
/-- The command codes (R55), the start pulse, reset, the steps without an operand word (R60). -/
theorem test_decode_commands :
    decode (.cmd 0b0) = .ok .encode ∧ decode (.cmd 0b1) = .ok .decode ∧
    decode .hostcmd = .ok .start ∧ decode .reset = .ok .buildRev := by decide
theorem test_decode_steps :
    decode (.step .encFin) = .ok .encFin ∧ decode (.step .chkLen) = .ok .chkLen ∧
    decode (.step .chkPad) = .ok .chkPad ∧ decode (.step .chkChr) = .ok .chkChr ∧
    decode (.step .decFin) = .ok .decFin := by decide
theorem test_decode_table :
    decode (.index 0b010011) = .ok (.symbolFor 19) ∧
    decode (.code 0b01010100) = .ok (.indexFor 0x54) := by decide

/-- The 64 symbol codes as R50 lists them. -/
def codes0 : List (Byte × Instr) :=
  [(0x41, .symbol00A), (0x42, .symbol01B), (0x43, .symbol02C), (0x44, .symbol03D),
   (0x45, .symbol04E), (0x46, .symbol05F), (0x47, .symbol06G), (0x48, .symbol07H),
   (0x49, .symbol08I), (0x4A, .symbol09J), (0x4B, .symbol10K), (0x4C, .symbol11L),
   (0x4D, .symbol12M), (0x4E, .symbol13N), (0x4F, .symbol14O), (0x50, .symbol15P)]
def codes1 : List (Byte × Instr) :=
  [(0x51, .symbol16Q), (0x52, .symbol17R), (0x53, .symbol18S), (0x54, .symbol19T),
   (0x55, .symbol20U), (0x56, .symbol21V), (0x57, .symbol22W), (0x58, .symbol23X),
   (0x59, .symbol24Y), (0x5A, .symbol25Z), (0x61, .symbol26a), (0x62, .symbol27b),
   (0x63, .symbol28c), (0x64, .symbol29d), (0x65, .symbol30e), (0x66, .symbol31f)]
def codes2 : List (Byte × Instr) :=
  [(0x67, .symbol32g), (0x68, .symbol33h), (0x69, .symbol34i), (0x6A, .symbol35j),
   (0x6B, .symbol36k), (0x6C, .symbol37l), (0x6D, .symbol38m), (0x6E, .symbol39n),
   (0x6F, .symbol40o), (0x70, .symbol41p), (0x71, .symbol42q), (0x72, .symbol43r),
   (0x73, .symbol44s), (0x74, .symbol45t), (0x75, .symbol46u), (0x76, .symbol47v)]
def codes3 : List (Byte × Instr) :=
  [(0x77, .symbol48w), (0x78, .symbol49x), (0x79, .symbol50y), (0x7A, .symbol51z),
   (0x30, .symbol520), (0x31, .symbol531), (0x32, .symbol542), (0x33, .symbol553),
   (0x34, .symbol564), (0x35, .symbol575), (0x36, .symbol586), (0x37, .symbol597),
   (0x38, .symbol608), (0x39, .symbol619), (0x2B, .symbol62Plus), (0x2F, .symbol63Slash)]

/-- Every symbol row's code, and the pad's (R50, R51), both ways. -/
theorem test_decode_symbols :
    ∀ row ∈ codes0 ++ codes1 ++ codes2 ++ codes3 ++ [(0x3D, .pad)],
      decode (.sym row.1) = .ok row.2 ∧ encode row.2 = .sym row.1 := by decide

set_option maxRecDepth 100000 in
/-- How many of the 256 codes are no `SYM` row: the 191 illegal ones (R54). -/
theorem test_illegal_codes :
    ((List.range 256).filter fun n =>
      decodeSym (BitVec.ofNat 8 n) == .error (.illegalCode (BitVec.ofNat 8 n))).length = 191 := by
  decide

/-- Table words by width (log 11): a 24-bit word of 3, 2, 1 bytes, 32-bit words, the two commands. -/
theorem test_table_words :
    decodeTableWord 24 0x4D616E = some (.enc3 0x4D 0x61 0x6E) ∧
    decodeTableWord 24 0x4D6100 = some (.enc2 0x4D 0x61) ∧
    decodeTableWord 24 0x4D0000 = some (.enc1 0x4D) ∧
    decodeTableWord 32 0x54574675 = some (.dec4 0x54 0x57 0x46 0x75) ∧
    decodeTableWord 32 0x5457453D = some (.dec3 0x54 0x57 0x45) ∧
    decodeTableWord 32 0x54513D3D = some (.dec2 0x54 0x51) ∧
    decodeTableWord 1 1 = some .decode ∧ decodeTableWord 6 0x13 = some (.symbolFor 19) ∧
    decodeTableWord 8 0x54 = some .symbol19T ∧ decodeTableWord 8 0x3D = some .pad ∧
    decodeTableWord 8 0x80 = some (.indexFor 0x80) ∧ decodeTableWord 24 0x1000000 = none := by decide

/-- A table word put before the machine in reset is the next instruction it runs (log 17). -/
theorem test_fetch_word_enc2 :
    seen (step (State.reset.withFetchWord 24 0x4D6100)) moved =
      some (2, 4, [(0, 0x54), (1, 0x57), (2, 0x45), (3, 0x3D)]) := by decide
theorem test_fetch_word_dec2 :
    seen (step (State.reset.withFetchWord 32 0x54513D3D)) moved = some (4, 1, [(0, 0x4D)]) := by decide

/-! ## The alphabet table -/

/-- 95_test_vectors.md 2.1. -/
theorem test_symbol_for :
    seen (exec (.symbolFor 62) State.reset) (fun t => t.mapped) =
      some (some { code := 0x2B, index := some 62 }) := by decide
theorem test_index_for :
    seen (exec (.indexFor 0x7A) State.reset) (fun t => t.mapped) =
      some (some { code := 0x7A, index := some 51 }) := by decide
theorem test_index_for_none :
    seen (exec (.indexFor 0x7B) State.reset) (fun t => t.mapped) =
      some (some { code := 0x7B, index := none }) := by decide
theorem test_symbol_code :
    seen (exec .symbol46u State.reset) (fun t => t.mapped) =
      some (some { code := 0x75, index := some 46 }) := by decide
theorem test_pad_code :
    seen (exec .pad State.reset) (fun t => t.mapped) =
      some (some { code := 0x3D, index := none }) := by decide
/-- `REV[2F] = (1, 63)`, `REV[3D] = (0, 0)`: over a `REV` that held nothing. -/
theorem test_build_rev :
    seen (exec .buildRev { State.reset with rev := revCleared })
      (fun t => (revAt t.rev 0x2F, revAt t.rev 0x3D)) =
      some ({ valid := true, idx := 63 }, { valid := false, idx := 0 }) := by decide
/-- The entry format: `VALID` bit 6, `IDX` bits 5:0 (R56). -/
theorem test_rev_entry_bits : revEntBits { valid := true, idx := 0b000011 } = 0b1000011 := by decide

/-! ## The encoder -/

/-- P1: the first group of "Man". -/
theorem test_enc3_registers :
    seen (exec (.enc3 0x4D 0x61 0x6E) (busyIn .pEnc [0x4D, 0x61, 0x6E] 0 0)) group =
      some (0x4D616E, 19, 22, 5, 46) := by decide
/-- A17, its second group: `A9l+`. -/
theorem test_enc3_output :
    seen (exec (.enc3 0x03 0xD9 0x7E) (busyIn .pEnc [] 3 4)) moved =
      some (6, 8, [(4, 0x41), (5, 0x39), (6, 0x6C), (7, 0x2B)]) := by decide
/-- A14: `/+8=`. -/
theorem test_enc2_output :
    seen (exec (.enc2 0xFF 0xEF) (busyIn .pEnc [0xFF, 0xEF] 0 0)) moved =
      some (2, 4, [(0, 0x2F), (1, 0x2B), (2, 0x38), (3, 0x3D)]) := by decide
theorem test_enc2_registers :
    seen (exec (.enc2 0xFF 0xEF) (busyIn .pEnc [0xFF, 0xEF] 0 0)) group =
      some (0xFFEF00, 63, 62, 60, 0) := by decide
/-- A5: `/w==`. -/
theorem test_enc1_output :
    seen (exec (.enc1 0xFF) (busyIn .pEnc [0xFF] 0 0)) moved =
      some (1, 4, [(0, 0x2F), (1, 0x77), (2, 0x3D), (3, 0x3D)]) := by decide
theorem test_enc1_registers :
    seen (exec (.enc1 0xFF) (busyIn .pEnc [0xFF] 0 0)) group = some (0xFF0000, 63, 48, 0, 0) := by decide
/-- P1, last line. -/
theorem test_enc_fin :
    seen (exec .encFin (busyIn .pEnc [0x4D, 0x61, 0x6E] 3 4)) ended = some (.done, .none, 0, 4) := by
  decide
/-- A16: `SGVsbG8=`, START to DONE. -/
theorem test_encode :
    seen (exec .encode (holding 0 [0x48, 0x65, 0x6C, 0x6C, 0x6F])) (fun t => (ended t, t.outputSeq)) =
      some ((.done, .none, 0, 8), some [0x53, 0x47, 0x56, 0x73, 0x62, 0x47, 0x38, 0x3D]) := by decide
/-- A1: the empty input. -/
theorem test_encode_empty :
    seen (exec .encode (holding 0 [])) (fun t => (ended t, t.outputSeq)) =
      some ((.done, .none, 0, 0), some []) := by decide

/-! ## The decoder -/

/-- E5: length 5, whatever the characters are. -/
theorem test_chklen_raises :
    seen (exec .chkLen (busyIn .pChkLen [0x54, 0x57, 0x46, 0x75, 0x21] 0 0)) ended =
      some (.done, .invalidLength, 0, 0) := by decide
theorem test_chklen_passes :
    seen (exec .chkLen (busyIn .pChkLen textB5 0 0)) (fun t => (t.st, t.phase)) =
      some (.busy, .pChkPad) := by decide
/-- V5c: a pad in a group that is not the last. -/
theorem test_chkpad_raises :
    seen (exec .chkPad (busyIn .pChkPad textV5c 0 0)) ended = some (.done, .invalidPadding, 2, 0) := by
  decide
/-- P2: pads at 6 and 7. -/
theorem test_chkpad_passes :
    seen (exec .chkPad (busyIn .pChkPad textB5 0 0)) (fun t => (t.st, t.phase, t.npad)) =
      some (.busy, .pChkChr, 2) := by decide
/-- E20. -/
theorem test_chkchr_raises :
    seen (exec .chkChr (busyIn .pChkChr textE20 0 0)) ended =
      some (.done, .invalidCharacter, 2, 0) := by decide
theorem test_chkchr_passes :
    seen (exec .chkChr (busyIn .pChkChr textB5 3 5)) (fun t => (t.st, t.phase, t.iptr, t.optr)) =
      some (.busy, .pDec, 0, 0) := by decide
/-- B13: `/+9a`. -/
theorem test_dec4_output :
    seen (exec (.dec4 0x2F 0x2B 0x39 0x61) (busyIn .pDec [] 0 0)) moved =
      some (4, 3, [(0, 0xFF), (1, 0xEF), (2, 0x5A)]) := by decide
theorem test_dec4_registers :
    seen (exec (.dec4 0x2F 0x2B 0x39 0x61) (busyIn .pDec [] 0 0)) group =
      some (0xFFEF5A, 63, 62, 61, 26) := by decide
/-- B23: `///=`, the discarded bits not zero. -/
theorem test_dec3_output :
    seen (exec (.dec3 0x2F 0x2F 0x2F) (busyIn .pDec [] 0 0)) moved =
      some (4, 2, [(0, 0xFF), (1, 0xFF)]) := by decide
theorem test_dec3_registers :
    seen (exec (.dec3 0x2F 0x2F 0x2F) (busyIn .pDec [] 0 0)) group =
      some (0xFFFFC0, 63, 63, 63, 0) := by decide
/-- B22: `T/==`. -/
theorem test_dec2_output :
    seen (exec (.dec2 0x54 0x2F) (busyIn .pDec [] 4 3)) moved = some (8, 4, [(3, 0x4F)]) := by decide
theorem test_dec2_registers :
    seen (exec (.dec2 0x54 0x2F) (busyIn .pDec [] 4 3)) group = some (0x4FF000, 19, 63, 0, 0) := by
  decide
theorem test_dec_fin :
    seen (exec .decFin (busyIn .pDec textB5 8 4)) ended = some (.done, .none, 0, 4) := by decide
/-- B5: `TWFuTQ==` decodes (90_conflicts.md C1). -/
theorem test_decode_b5 :
    seen (exec .decode (holding 1 textB5)) (fun t => (ended t, t.outputSeq)) =
      some ((.done, .none, 0, 4), some [0x4D, 0x61, 0x6E, 0x4D]) := by decide
/-- P5, first line: the text fails all three checks. -/
theorem test_decode_priority :
    seen (exec .decode (holding 1 [0x21, 0x3D, 0x21, 0x21, 0x78])) ended =
      some (.done, .invalidLength, 0, 0) := by decide

/-! ## The host -/

/-- H3: START of a DECODE of the empty text. -/
theorem test_start :
    seen (exec .start (holding 1 [])) (fun t => (t.st, t.phase)) = some (.busy, .pChkLen) := by decide
/-- H4: START leaves the error state. -/
theorem test_start_clears :
    seen (exec .start { holding 0 [] with st := .done, err := .invalidCharacter, errPos := 2 }) ended =
      some (.busy, .none, 0, 0) := by decide
/-- P4: STATUS after E20 reads 0x0E. -/
theorem test_status_word :
    ({ State.reset with st := .done, err := .invalidCharacter } : State).statusWord = 0x0E := by decide
/-- H6: reset during `BUSY`. -/
theorem test_reset_while_busy :
    seen (step { busyIn .pDec textB5 4 3 with pending := [.reset] }) (fun t => (ended t, t.inLen)) =
      some ((.idle, .none, 0, 0), 0) := by decide

/-! ## Witnesses: hypotheses of the statements, met

The name after `witness` is the statement's; several clauses are shown in one theorem each, at the edges of
their ranges. -/

theorem witnessDecodeOfEncodeIsTheInstruction :
    (Instr.dec4 0x41 0x3D 0x00 0xFF).wf = true ∧ (Instr.dec3 0x3D 0x41 0x3C).wf = true ∧
    (Instr.enc1 0xFF).wf = true := by decide

theorem witnessEncodeOfDecodeIsThePacket :
    decode (.g24 2 0xFFEF00) = .ok (.enc2 0xFF 0xEF) ∧
    decode (.c32 0x3D3D3D3D) = .ok (.dec2 0x3D 0x3D) ∧ decode (.sym 0x2B) = .ok .symbol62Plus := by
  decide

/-- Both ends of every illegal range, the neighbours that are symbols, and the pad. -/
theorem witnessCharacterCodesSymbolPadOrIllegal :
    (∀ c ∈ [0x00, 0x2A, 0x2C, 0x2E, 0x3A, 0x3C, 0x3E, 0x40, 0x5B, 0x60, 0x7B, 0xFF],
      IllegalCode c ∧ c ≠ 0x3D) ∧
    (∀ c ∈ [0x2B, 0x2F, 0x30, 0x39, 0x41, 0x5A, 0x61, 0x7A], ¬ IllegalCode c ∧ c ≠ 0x3D) ∧
    ¬ IllegalCode 0x3D := by
  unfold IllegalCode
  decide

theorem witnessBuildRevWritesTheInverse :
    symbolClosed 63 = 0x2F ∧ ∀ i : Sextet, symbolClosed i ≠ 0x3D := by decide

theorem witnessForwardTableIsTheAlphabet : (0 : Sextet) ≠ 63 := by decide

theorem witnessLookupsAreInverse : indexOf builtRev 0x2F = some 63 ∧ indexOf builtRev 0x41 = some 0 := by
  decide

theorem witnessIndexForAnswersTheReverseTable :
    (revAt State.reset.rev 0x41).valid = true ∧ (revAt State.reset.rev 0x40).valid = false := by decide

theorem witnessSymbolCodesAnswerTheirIndex :
    symbolIndex .symbol00A = some 0 ∧ symbolIndex .symbol63Slash = some 63 ∧
    State.reset.rev = builtRev := ⟨rfl, rfl, rfl⟩

/-! ### The group steps of the encoder: `OUT` with exactly the room needed, the last group of the input -/

/-- A block with the given capacities. -/
def capped (s : State) (capIn capOut : Nat) : State :=
  { s with cfg := { capIn := some capIn, capOut := some capOut } }

theorem witnessEnc3EncodesThreeBytes :
    let s := capped (busyIn .pEnc [0, 0, 0, 0x4D, 0x61, 0x6E] 3 4) 6 8
    fits s.cfg.capOut (s.optr + 4) = true ∧ s.hostQuiet = true ∧ s.st = .busy ∧ s.phase = .pEnc ∧
    s.iptr + 3 ≤ s.inLen ∧ fits s.cfg.capIn s.inLen = true ∧
    Memory.readSeq s.inBuf s.iptr 3 = some [0x4D, 0x61, 0x6E] := by decide

theorem witnessEnc2EncodesTwoBytes :
    let s := capped (busyIn .pEnc [0, 0, 0, 0x4D, 0x61] 3 4) 5 8
    fits s.cfg.capOut (s.optr + 4) = true ∧ s.hostQuiet = true ∧ s.st = .busy ∧ s.phase = .pEnc ∧
    s.iptr + 2 = s.inLen ∧ fits s.cfg.capIn s.inLen = true ∧
    Memory.readSeq s.inBuf s.iptr 2 = some [0x4D, 0x61] := by decide

theorem witnessEnc1EncodesOneByte :
    let s := capped (busyIn .pEnc [0x4D] 0 0) 1 4
    fits s.cfg.capOut (s.optr + 4) = true ∧ s.hostQuiet = true ∧ s.st = .busy ∧ s.phase = .pEnc ∧
    s.iptr + 1 = s.inLen ∧ fits s.cfg.capIn s.inLen = true ∧
    Memory.read s.inBuf s.iptr = some 0x4D := by decide

/-! ### The checks -/

theorem witnessChkLenTestsTheLength :
    (busyIn .pChkLen [0x41] 0 0).inLen % 4 ≠ 0 ∧ (busyIn .pChkLen [0x41, 0x41, 0x41] 0 0).inLen % 4 ≠ 0 ∧
    (busyIn .pChkLen [] 0 0).inLen % 4 = 0 ∧ (busyIn .pChkLen textTQ 0 0).inLen % 4 = 0 ∧
    (busyIn .pChkLen textTQ 0 0).hostQuiet = true ∧ (busyIn .pChkLen textTQ 0 0).st = .busy ∧
    (busyIn .pChkLen textTQ 0 0).phase = .pChkLen := by decide

theorem hasInput_textV5c (p : Phase) : (busyIn p textV5c 0 0).HasInput textV5c := by
  unfold State.HasInput
  cases p <;> decide

theorem hasInput_textB5 (p : Phase) : (busyIn p textB5 0 0).HasInput textB5 := by
  unfold State.HasInput
  cases p <;> decide

/-- No misplaced pad in a text of length `n` is a question about the indices below `n`. -/
theorem noMisplacedPad {text : List Byte} (h : ∀ i, i < text.length → ¬ MisplacedPad text i) (i : Nat) :
    ¬ MisplacedPad text i := by
  by_cases hi : i < text.length
  · exact h i hi
  · rintro ⟨hc, -⟩
    rw [List.getElem?_eq_none (by omega)] at hc
    cases hc

/-- A misplaced pad; two pads in their place; and the empty text, where `NPAD` can only be 0 (R102). -/
theorem witnessChkPadTestsThePads :
    (busyIn .pChkPad textV5c 0 0).HasInput textV5c ∧ Least (MisplacedPad textV5c) 2 ∧
    (busyIn .pChkPad textB5 0 0).HasInput textB5 ∧ (∀ i, ¬ MisplacedPad textB5 i) ∧
    (busyIn .pChkPad [] 0 0).HasInput [] ∧ (∀ i, ¬ MisplacedPad [] i) ∧
    seen (exec .chkPad (busyIn .pChkPad [] 0 0)) (fun t => (t.npad, t.phase)) = some (0, .pChkChr) ∧
    (busyIn .pChkPad textB5 0 0).hostQuiet = true ∧ (busyIn .pChkPad textB5 0 0).st = .busy ∧
    (busyIn .pChkPad textB5 0 0).phase = .pChkPad := by
  refine ⟨hasInput_textV5c _, ?_, hasInput_textB5 _, noMisplacedPad ?_, ?_, noMisplacedPad nofun, by decide,
    rfl, rfl, rfl⟩
  · unfold Least MisplacedPad
    decide
  · unfold MisplacedPad
    decide
  · unfold State.HasInput
    decide

/-- The pads of "TWE=" and of a text of one pad group are not misplaced, those of `T===`, `=AAA`, `AA=A`
are (B3, B4, E12, E14, E16). -/
theorem witnessMisplacedPadEdges :
    (∀ i, i < 4 → ¬ MisplacedPad textTWE i) ∧ (∀ i, i < 4 → ¬ MisplacedPad textTQ i) ∧
    Least (MisplacedPad [0x54, 0x3D, 0x3D, 0x3D]) 1 ∧ Least (MisplacedPad [0x3D, 0x41, 0x41, 0x41]) 0 ∧
    Least (MisplacedPad [0x41, 0x41, 0x3D, 0x41]) 2 := by
  unfold Least MisplacedPad
  refine ⟨?_, ?_, ?_, ?_, ?_⟩ <;> decide

/-- The code the scan meets at `i` has no index and is no pad. -/
theorem unresolvedAt {rev : Rev} {text : List Byte} {i : Nat} {c : Byte} (ht : text[i]? = some c)
    (hp : c ≠ 0x3D) (hc : indexOf rev c = none) : UnresolvedChar rev text i := ⟨c, ht, hp, hc⟩

/-- A text all of whose characters are pads or have an index. -/
theorem noUnresolvedChar {rev : Rev} {text : List Byte}
    (h : ∀ c ∈ text, c = 0x3D ∨ (indexOf rev c).isSome = true) (i : Nat) :
    ¬ UnresolvedChar rev text i := by
  rintro ⟨c, ht, hp, hc⟩
  rcases h c (List.mem_of_getElem? ht) with h | h
  · exact hp h
  · rw [hc] at h
    cases h

theorem witnessChkChrTestsTheCharacters :
    (busyIn .pChkChr textE20 0 0).HasInput textE20 ∧ Least (UnresolvedChar builtRev textE20) 2 ∧
    (busyIn .pChkChr textB5 0 0).HasInput textB5 ∧ (∀ i, ¬ UnresolvedChar builtRev textB5 i) ∧
    (busyIn .pChkChr textB5 0 0).hostQuiet = true ∧ (busyIn .pChkChr textB5 0 0).st = .busy ∧
    (busyIn .pChkChr textB5 0 0).phase = .pChkChr := by
  refine ⟨?_, ⟨unresolvedAt rfl (by decide) (by decide), fun j hj => ?_⟩, hasInput_textB5 _,
    noUnresolvedChar (by decide), rfl, rfl, rfl⟩
  · unfold State.HasInput
    decide
  · rintro ⟨c, ht, hp, hc⟩
    have hall : ∀ d ∈ textE20.take 2, (indexOf builtRev d).isSome = true := by decide
    have := hall c (List.mem_of_getElem? (by rw [List.getElem?_take_of_lt hj]; exact ht))
    rw [hc] at this
    cases this

/-! ### The group steps of the decoder -/

theorem witnessDec4DecodesAFullGroup :
    let s := capped (busyIn .pDec textTWFu 0 0) 4 3
    fits s.cfg.capOut (s.optr + 3) = true ∧ s.hostQuiet = true ∧ s.st = .busy ∧ s.phase = .pDec ∧
    s.iptr < s.inLen ∧ fits s.cfg.capIn (s.iptr + 4) = true ∧
    Memory.readSeq s.inBuf s.iptr 4 = some [0x54, 0x57, 0x46, 0x75] ∧ (0x75 : Byte) ≠ 0x3D := by decide

theorem witnessDec3DecodesAGroupWithOnePad :
    let s := capped (busyIn .pDec textTWE 0 0) 4 2
    fits s.cfg.capOut (s.optr + 2) = true ∧ s.hostQuiet = true ∧ s.st = .busy ∧ s.phase = .pDec ∧
    s.iptr < s.inLen ∧ fits s.cfg.capIn (s.iptr + 4) = true ∧
    Memory.readSeq s.inBuf s.iptr 4 = some [0x54, 0x57, 0x45, 0x3D] ∧ (0x45 : Byte) ≠ 0x3D := by decide

theorem witnessDec2DecodesAGroupWithTwoPads :
    let s := capped (busyIn .pDec textB5 4 3) 8 4
    fits s.cfg.capOut (s.optr + 1) = true ∧ s.hostQuiet = true ∧ s.st = .busy ∧ s.phase = .pDec ∧
    s.iptr < s.inLen ∧ fits s.cfg.capIn (s.iptr + 4) = true ∧
    Memory.readSeq s.inBuf s.iptr 4 = some [0x54, 0x51, 0x3D, 0x3D] := by decide

theorem witnessFinalStepsEndTheOperation :
    let s := busyIn .pEnc [0x4D, 0x61, 0x6E] 3 4
    let t := busyIn .pDec textB5 8 4
    s.hostQuiet = true ∧ s.st = .busy ∧ s.phase = .pEnc ∧ s.iptr = s.inLen ∧
    t.hostQuiet = true ∧ t.st = .busy ∧ t.phase = .pDec ∧ t.iptr = t.inLen := by decide

/-! ### Stops and frames -/

/-- One element short for each number of stored elements; the first unwritten element at 0, 1 and at the
end of the input; the first unwritten element of a group at its first and at its last place. -/
theorem witnessStepsStopRatherThanPick :
    (∀ i ∈ [Instr.enc3 1 2 3, .enc2 1 2, .enc1 1, .dec4 1 2 3 4, .dec3 1 2 3, .dec2 1 2],
      storedCount i ≠ 0 ∧ fits (some (4 + storedCount i - 1)) (4 + storedCount i) = false) ∧
    (∀ a, a < 3 →
      let s := { State.reset with inLen := 3, inBuf := Memory.writeSeq [] 0 ([7, 8].take a) }
      fits s.cfg.capIn s.inLen = true ∧ a < s.inLen ∧ Memory.read s.inBuf a = none ∧
      ∀ b, b < a → Memory.read s.inBuf b ≠ none) ∧
    (∀ a ∈ [3, 5],
      let s := { busyIn .pEnc [] 3 4 with inLen := 6, inBuf := Memory.writeSeq [] 3 ([7, 8].take (a - 3)) }
      s.hostQuiet = true ∧ s.st = .busy ∧ s.iptr ≤ a ∧ Memory.read s.inBuf a = none ∧
      (∀ b, b < a → s.iptr ≤ b → Memory.read s.inBuf b ≠ none) ∧ s.phase = .pEnc ∧
      fits s.cfg.capIn s.inLen = true ∧ a < s.iptr + min 3 (s.inLen - s.iptr)) ∧
    (∀ a ∈ [4, 7],
      let s := { busyIn .pDec [] 4 3 with
        inLen := 8, inBuf := Memory.writeSeq [] 4 ([7, 8, 9].take (a - 4)) }
      s.hostQuiet = true ∧ s.st = .busy ∧ s.iptr ≤ a ∧ Memory.read s.inBuf a = none ∧
      (∀ b, b < a → s.iptr ≤ b → Memory.read s.inBuf b ≠ none) ∧ s.phase = .pDec ∧
      s.iptr < s.inLen ∧ fits s.cfg.capIn (s.iptr + 4) = true ∧ a < s.iptr + 4) := by decide

theorem witnessStepsChangeOnlyTheStoredElements :
    (∀ i ∈ [Instr.enc3 1 2 3, .enc2 1 2, .enc1 1, .encFin, .chkLen, .chkPad, .chkChr, .dec4 1 2 3 4,
        .dec3 1 2 3, .dec2 1 2, .decFin, .symbolFor 1, .indexFor 1, .buildRev, .symbol00A, .pad],
      isStep i = true ∧ (nextState (exec i (busyIn .pDec textB5 4 3))).isSome = true) ∧
    storedCount (.dec4 1 2 3 4) = 3 := by decide

theorem witnessOperationsStoreOnlyTheirOutput :
    (holding 1 textB5).st ≠ .busy ∧
    ∀ i ∈ [Instr.start, .encode, .decode], (nextState (exec i (holding 1 textB5))).isSome = true := by
  decide

/-! ### The two functions -/

theorem witnessEncodedTextStaysInTheAlphabet :
    (0x3D : Byte) ∈ encodeBytes [0x4D] ∧ (0x54 : Byte) ∈ encodeBytes [0x4D] := by decide

theorem witnessEncodedPadsStandAtTheEnd :
    3 < (encodeBytes [0x4D]).length ∧ 0 < (encodeBytes [0x4D]).length := by decide

theorem witnessEncodeOfAConcatenation :
    ([] : List Byte).length % 3 = 0 ∧ [(1 : Byte), 2, 3].length % 3 = 0 ∧
    [(1 : Byte)].length % 3 ≠ 0 ∧ [(1 : Byte), 2].length % 3 ≠ 0 ∧ [(1 : Byte)] ≠ [] := by decide

theorem witnessDecodeOfEncodeIsTheInput : encodeBytes [0x4D] = encodeBytes [0x4D] := rfl

/-- 'E' and 'F', 'H' (4 and 5, 7) agree above the low 2 bits; 'Q' and 'Z' (16 and 25) above the low 4 (B3,
B17 to B21). -/
theorem witnessDiscardedBitsDoNotMatter :
    indexOf builtRev 0x45 = some 4 ∧ indexOf builtRev 0x46 = some 5 ∧ indexOf builtRev 0x48 = some 7 ∧
    (4 : Sextet).toNat / 4 = (5 : Sextet).toNat / 4 ∧ (4 : Sextet).toNat / 4 = (7 : Sextet).toNat / 4 ∧
    indexOf builtRev 0x51 = some 16 ∧ indexOf builtRev 0x5A = some 25 ∧
    (16 : Sextet).toNat / 16 = (25 : Sextet).toNat / 16 := by decide

/-- For SuccessfulDecodeLengthAndAlphabet and EncodeOfDecodeIsTheCanonicalText: texts of no, one and two
pads, canonical, and with discarded bits that are not zero. -/
theorem witnessTextsThatDecode :
    decodeText builtRev [] = .ok [] ∧ decodeText builtRev textTWFu = .ok [0x4D, 0x61, 0x6E] ∧
    decodeText builtRev textTWE = .ok [0x4D, 0x61] ∧
    decodeText builtRev [0x54, 0x57, 0x46, 0x3D] = .ok [0x4D, 0x61] ∧
    decodeText builtRev textTQ = .ok [0x4D] ∧
    decodeText builtRev [0x54, 0x52, 0x3D, 0x3D] = .ok [0x4D] := ⟨rfl, rfl, rfl, rfl, rfl, rfl⟩

theorem witnessErrorsByCheckOrder :
    [(0x54 : Byte), 0x57, 0x46, 0x75, 0x21].length % 4 ≠ 0 ∧
    (textV5c.length % 4 = 0 ∧ Least (MisplacedPad textV5c) 2) ∧
    (textE20.length % 4 = 0 ∧ (∀ j, ¬ MisplacedPad textE20 j) ∧
      Least (UnresolvedChar builtRev textE20) 2) ∧
    textB5.length % 4 = 0 ∧ (∀ j, ¬ MisplacedPad textB5 j) ∧ ∀ j, ¬ UnresolvedChar builtRev textB5 j := by
  refine ⟨by decide, ⟨rfl, witnessChkPadTestsThePads.2.1⟩,
    ⟨rfl, noMisplacedPad ?_, witnessChkChrTestsTheCharacters.2.1⟩, rfl,
    witnessChkPadTestsThePads.2.2.2.1, witnessChkChrTestsTheCharacters.2.2.2.1⟩
  unfold MisplacedPad
  decide

/-! ### The operations -/

theorem hasInput_holding : (holding 1 textB5).HasInput textB5 ∧ (holding 0 []).HasInput [] := by
  unfold State.HasInput
  decide

/-- A DECODE whose four bytes just fit; the same block is `BUSY` for the second clause. -/
theorem witnessStartBeginsAnOperation :
    let s := capped (holding 1 textB5) 8 4
    s.st ≠ .busy ∧ s.HasInput textB5 ∧ fits s.cfg.capOut (resultLength s.rev s.op textB5) = true ∧
    (busyIn .pDec textB5 4 3).st = .busy := by
  unfold State.HasInput
  decide

/-- `CAP_IN` one short; an element never written, the last one, of an ENCODE and of a DECODE whose length is a
multiple of 4; `CAP_OUT` one short. -/
theorem witnessStartOutsideTheSpecIsRefused :
    (let s := capped (holding 1 textB5) 7 4
     s.st ≠ .busy ∧ fits s.cfg.capIn s.inLen = false) ∧
    (let s := { holding 0 textB5 with inLen := 9 }
     s.st ≠ .busy ∧ fits s.cfg.capIn s.inLen = true ∧ s.op = 0 ∧ 8 < s.inLen ∧
     Memory.read s.inBuf 8 = none) ∧
    (let s := { holding 1 textB5 with inLen := 12 }
     s.st ≠ .busy ∧ fits s.cfg.capIn s.inLen = true ∧ s.inLen % 4 = 0 ∧ 8 < s.inLen ∧
     Memory.read s.inBuf 8 = none) ∧
    (let s := capped (holding 1 textB5) 8 3
     s.st ≠ .busy ∧ s.HasInput textB5 ∧
     fits s.cfg.capOut (resultLength s.rev s.op textB5) = false) := by
  unfold State.HasInput
  decide

theorem witnessEncodeCompletesOnEveryInput :
    let s := capped (holding 0 [0x4D, 0x61, 0x6E, 0x4D]) 4 8
    s.st ≠ .busy ∧ s.HasInput [0x4D, 0x61, 0x6E, 0x4D] ∧
    fits s.cfg.capOut (4 * (([0x4D, 0x61, 0x6E, 0x4D].length + 2) / 3)) = true ∧
    (busyIn .pEnc [] 0 0).st = .busy := by
  unfold State.HasInput
  decide

/-- A text that decodes and one that does not, the latter with no room in `OUT` at all (R113). -/
theorem witnessDecodeCompletesOnEveryText :
    (let s := capped (holding 1 textB5) 8 4
     s.st ≠ .busy ∧ s.HasInput textB5 ∧ fits s.cfg.capOut (resultLength s.rev 1 textB5) = true) ∧
    (let s := capped (holding 1 textE20) 4 0
     s.st ≠ .busy ∧ s.HasInput textE20 ∧ fits s.cfg.capOut (resultLength s.rev 1 textE20) = true) := by
  unfold State.HasInput
  decide

/-- The same input in two blocks that differ in everything else. -/
theorem witnessResultDependsOnTheInputOnly :
    let s := holding 1 textB5
    let t := { s with st := .done, errPos := 5, outLen := 9, npad := 2, iptr := 7, acc := 1 }
    s.st ≠ .busy ∧ t.st ≠ .busy ∧ s.rev = t.rev ∧ s.HasInput textB5 ∧ t.HasInput textB5 ∧
    (nextState (exec .decode s)).isSome = true ∧ (nextState (exec .decode t)).isSome = true := by
  refine ⟨by decide, by decide, rfl, hasInput_holding.1, ?_, by decide, by decide⟩
  unfold State.HasInput
  decide

/-! ### The step -/

theorem witnessStepRunsTheDecodedInstruction :
    (busyIn .pEnc [0x4D] 0 0).activity = .run (.g24 1 0x4D0000) ∧
    decode (.g24 1 0x4D0000) = .ok (.enc1 0x4D) ∧
    ({ State.reset with pending := [.reset] } : State).activity = .run .reset := by decide

theorem witnessSequencerSelectsByPhase :
    (∀ p ∈ [Phase.pChkLen, .pChkPad, .pChkChr], (busyIn p textB5 0 0).hostQuiet = true ∧
      (busyIn p textB5 0 0).st = .busy ∧ (busyIn p textB5 0 0).phase = p) ∧
    (∀ p ∈ [Phase.pEnc, .pDec], (busyIn p textB5 8 0).iptr = (busyIn p textB5 8 0).inLen ∧
      (busyIn p textB5 8 0).phase = p) ∧
    (∀ run ∈ [[(1 : Byte)], [1, 2], [1, 2, 3]],
      let s := busyIn .pEnc run 0 0
      s.phase = .pEnc ∧ s.iptr < s.inLen ∧ fits s.cfg.capIn s.inLen = true ∧
      run.length = min 3 (s.inLen - s.iptr) ∧ Memory.readSeq s.inBuf s.iptr run.length = some run) ∧
    (let s := busyIn .pDec textB5 4 0
     s.phase = .pDec ∧ s.iptr < s.inLen ∧ fits s.cfg.capIn (s.iptr + 4) = true ∧
     Memory.readSeq s.inBuf s.iptr 4 = some [0x54, 0x51, 0x3D, 0x3D]) := by decide

theorem witnessEventsSelectTheirInstruction :
    (∀ e ∈ [Event.start, .call, .reset, .symbolFor 3, .indexFor 3, .character 0x41, .waitDone],
      ({ State.reset with pending := [e] } : State).pending = [e]) ∧
    (holding 0 []).op = 0 ∧ (holding 1 []).op = 1 ∧ (holding 0 []).st ≠ .done ∧
    ({ holding 0 [] with st := .done } : State).st = .done := by decide

theorem witnessGivenTableWordIsRunNext :
    State.reset.cfg.capIn = none ∧ decodeTableWord 24 0x4D616E = some (.enc3 0x4D 0x61 0x6E) ∧
    decodeTableWord 8 0x41 = some .symbol00A ∧ decodeTableWord 1 0 = some .encode := by decide

theorem witnessSequencerRestsOutsideBusy :
    (∀ p ∈ [[], [Event.silent], [.waitDone]],
      ({ State.reset with pending := p } : State).hostQuiet = true) ∧ State.reset.st ≠ .busy := by decide

theorem witnessTablesAndInputAreReadOnly :
    (nextState (step (busyIn .pEnc [0x4D] 0 0))).isSome = true ∧
    (nextState (step { State.reset with pending := [.writeOp 1] })).isSome = true ∧
    (busyIn .pEnc [0x4D] 0 0).pending.head? ≠ some .reset ∧
    ∀ n, (busyIn .pEnc [0x4D] 0 0).pending.head? ≠ some (.writeInLen n) := by
  refine ⟨by decide, by decide, by decide, fun n => ?_⟩
  simp [busyIn, holding, State.reset]

/-! ### Runs and the invariant -/

theorem witnessEncodeRunAgreesWithTheFunction :
    let s := { capped (holding 0 [0x4D, 0x61, 0x6E, 0x4D]) 4 8 with pending := [.start] }
    s.pending = [.start] ∧ s.st ≠ .busy ∧ s.op = 0 ∧ s.HasInput [0x4D, 0x61, 0x6E, 0x4D] ∧
    fits s.cfg.capOut (4 * (([0x4D, 0x61, 0x6E, 0x4D].length + 2) / 3)) = true := by
  unfold State.HasInput
  decide

/-- A text for each end: success, and an error of each check. -/
theorem witnessDecodeRunAgreesWithTheFunction :
    ∀ text ∈ [[], textB5, [0x41], textV5c, textE20],
      let s := { capped (holding 1 text) 8 4 with pending := [.start] }
      s.pending = [.start] ∧ s.st ≠ .busy ∧ s.op = 1 ∧ s.HasInput text ∧
      fits s.cfg.capOut (resultLength s.rev 1 text) = true := by
  unfold State.HasInput
  decide

/-- `BUSY` in the decoder's group phase, the first group of "TWFuTQ==" done. -/
def decodingB5 : State :=
  { busyIn .pDec textB5 4 3 with npad := 2, outBuf := [(0, 0x4D), (1, 0x61), (2, 0x6E)] }

/-- A state in the middle of an operation that meets the invariant. -/
theorem inv_decodingB5 : Inv decodingB5 where
  inWf := rfl
  outWf := rfl
  revBuilt := rfl
  clear := fun _ => ⟨rfl, rfl, rfl⟩
  noPartial := nofun
  position := nofun
  written := nofun
  busy := fun _ => .inr ⟨textB5, by unfold State.HasInput; decide, by
    show _ ∧ PadsChecked textB5 ∧ _
    unfold PadsChecked State.HasOutput
    decide⟩

theorem witnessEveryStepKeepsTheInvariant :
    Inv decodingB5 ∧ (nextState (step decodingB5)).isSome = true := ⟨inv_decodingB5, by decide⟩

theorem witnessSequencerNeverStops : Inv decodingB5 ∧ decodingB5.hostQuiet = true :=
  ⟨inv_decodingB5, rfl⟩

theorem witnessGroupStepsLookUpOnlySymbols :
    Inv decodingB5 ∧ decodingB5.hostQuiet = true ∧ decodingB5.st = .busy ∧ decodingB5.phase = .pDec ∧
    decodingB5.iptr < decodingB5.inLen ∧ decodingB5.activity = .run (.c32 0x54513D3D) ∧
    decode (.c32 0x54513D3D) = .ok (.dec2 0x54 0x51) :=
  ⟨inv_decodingB5, rfl, rfl, rfl, by decide, by decide, by decide⟩

/-! ### Reset, status, host accesses -/

theorem witnessResetActsFromEveryState :
    ({ decodingB5 with pending := [.reset, .start] } : State).pending = .reset :: [.start] := rfl

theorem witnessStatusWordLayout :
    (∀ x ∈ [St.idle, .busy, .done], ({ State.reset with st := x } : State).st = x) ∧
    ∀ x ∈ [Err.none, .invalidLength, .invalidPadding, .invalidCharacter],
      ({ State.reset with err := x } : State).err = x := by decide

/-- The last element of `IN` below `CAP_IN`; the last valid element of `OUT`, at `CAP_OUT - 1`; and a state
for each register read, while `BUSY` and at `DONE`. -/
theorem witnessHostReadsDeliverTheRegisters :
    (∀ e ∈ [Event.readStatus, .readDone, .readOp, .readInLen, .readErrPos, .readOutLen],
      ({ decodingB5 with pending := [e] } : State).pending = e :: [] ∧
      ({ holding 1 textB5 with pending := [e], st := .done } : State).pending = e :: []) ∧
    (let s := { capped (holding 1 textB5) 8 1 with pending := [.readIn 7] }
     s.pending = .readIn 7 :: [] ∧ fits s.cfg.capIn (7 + 1) = true ∧
     Memory.read s.inBuf 7 = some 0x3D) ∧
    (let s := { capped (holding 1 textB5) 8 1 with
       pending := [.readOut 0], st := .done, outLen := 1, outBuf := [(0, 0x4D)] }
     s.pending = .readOut 0 :: [] ∧ fits s.cfg.capOut (0 + 1) = true ∧ s.st = .done ∧
     0 < s.outLen ∧ Memory.read s.outBuf 0 = some 0x4D) := by decide

/-- `OUT` before `DONE`; `OUT` at `OUT_LEN`, although the element holds a value; `IN` never written; and
either buffer read twice. -/
theorem witnessUnspecifiedElementsReadAsAFreeValue :
    (let s := { State.reset with pending := [.readOut 0] }
     s.pending = .readOut 0 :: [] ∧ fits s.cfg.capOut (0 + 1) = true ∧ s.st ≠ .done) ∧
    (let s := { State.reset with
       pending := [.readOut 1], st := .done, outLen := 1, outBuf := [(0, 1), (1, 2)] }
     s.pending = .readOut 1 :: [] ∧ fits s.cfg.capOut (1 + 1) = true ∧ s.outLen ≤ 1) ∧
    (let s := { State.reset with pending := [.readIn 0] }
     s.pending = .readIn 0 :: [] ∧ fits s.cfg.capIn (0 + 1) = true ∧
     Memory.read s.inBuf 0 = none) ∧
    ∀ e ∈ [Event.readIn 7, .readOut 7],
      let s := capped { State.reset with pending := [e, e] } 8 8
      s.pending = e :: e :: [] ∧ fits s.cfg.capIn (7 + 1) = true ∧
      fits s.cfg.capOut (7 + 1) = true := by decide

/-- Each write from `IDLE`, the write of `IN` at its last element; and each while `BUSY`. -/
theorem witnessHostWritesOutsideBusyOnly :
    ∀ e ∈ [Event.writeOp 1, .writeInLen 5, .writeIn 7 1],
      (let s := capped { State.reset with pending := [e] } 8 0
       s.pending = e :: [] ∧ s.st ≠ .busy ∧ fits s.cfg.capIn (7 + 1) = true) ∧
      (let s := capped { decodingB5 with pending := [e] } 8 8
       s.pending = e :: [] ∧ s.st = .busy ∧ fits s.cfg.capIn (7 + 1) = true) := by decide

/-- A length of each remainder, nothing written, `CAP_IN` just large enough; and the START waiting. -/
theorem witnessDecodeOfABadLengthReadsNoElement :
    ∀ n ∈ [1, 2, 3],
      let s := capped { State.reset with op := 1, inLen := n, pending := [.start] } n 0
      s.st ≠ .busy ∧ fits s.cfg.capIn s.inLen = true ∧ s.inLen % 4 ≠ 0 ∧ s.op = 1 ∧
      s.pending = [.start] := by decide

end Sys2Proof.Tests
end

section
/-! PROOFS. START of an operation that lies outside the spec (00_scope.md R6, 20_memory.md R44,
60_exceptions.md R159): why `acceptInput` refuses it, and that START passes the refusal on. -/

namespace Sys2Proof.Machine

/-- No buffer is too small for an empty sequence. -/
@[simp] theorem fits_zero (cap : Option Nat) : fits cap 0 = true := by
  cases cap <;> simp [fits]

/-- A sequence with an element never written cannot be read (20_memory.md R44). -/
theorem Memory.readSeq_eq_none {m : Memory} {a n i : Nat} (hi : i < n) (h : read m (a + i) = none) :
    readSeq m a n = none := by
  rw [Option.eq_none_iff_forall_ne_some]
  intro vs hvs
  obtain ⟨hlen, helem⟩ := readSeq_eq_some.1 hvs
  have hout : vs[i]? = none := by rw [← helem i hi, h]
  rw [List.getElem?_eq_none_iff] at hout
  omega

theorem readsInput_iff {s : State} {op : OpCode} :
    s.readsInput op = true ↔ op = 0 ∨ s.inLen % 4 = 0 := by
  simp [State.readsInput]

/-- An operation that reads no element leaves no output: it is a DECODE of a bad length (R101, R113). -/
theorem resultLength_unread {s : State} {op : OpCode} {input : List Byte}
    (h : s.readsInput op = false) (hl : s.inLen = input.length) : resultLength s.rev op input = 0 := by
  have hread : ¬ (op = 0 ∨ s.inLen % 4 = 0) := by
    rw [← readsInput_iff, h]
    exact Bool.false_ne_true
  obtain ⟨hop, hlen⟩ := not_or.1 hread
  rw [resultLength, if_neg hop, decodeText_badLength (hl ▸ hlen)]

/-- A refusal by `acceptInput` is START's, which changes nothing (R130). -/
theorem execStart_refused {s : State} {r : Refusal} (hb : s.st ≠ .busy)
    (h : s.acceptInput s.op = .error r) : execStart s = .refused r := by
  simp [execStart, hb, h]

theorem acceptInput_over_capIn {s : State} {op : OpCode} (h : fits s.cfg.capIn s.inLen = false) :
    s.acceptInput op = .error .overCapacity := by
  simp [State.acceptInput, h]

theorem acceptInput_unwritten {s : State} {op : OpCode} {a : Nat}
    (hf : fits s.cfg.capIn s.inLen = true) (hr : s.readsInput op = true) (ha : a < s.inLen)
    (h : Memory.read s.inBuf a = none) : s.acceptInput op = .error .unwrittenInput := by
  have hseq : s.inputSeq = none := Memory.readSeq_eq_none ha (by simpa using h)
  simp [State.acceptInput, hf, hr, hseq]

/-- A result too long for `OUT` is one of an operation that reads its input, so the capacity is tested. -/
theorem State.HasInput.acceptInput_over_capOut {s : State} {op : OpCode} {input : List Byte}
    (hi : s.HasInput input) (h : fits s.cfg.capOut (resultLength s.rev op input) = false) :
    s.acceptInput op = .error .overCapacity := by
  obtain ⟨hseq, hf⟩ := hasInput_iff.1 hi
  cases hr : s.readsInput op with
  | true => simp [State.acceptInput, hf, hr, hseq, h]
  | false =>
    rw [resultLength_unread hr hi.1, fits_zero] at h
    cases h

/-- Settles O38: each clause is a refusal of `acceptInput`, which START answers outside `BUSY`. -/
theorem startOutsideTheSpecIsRefused : Obligations.StartOutsideTheSpecIsRefused := by
  intro s hb
  refine ⟨fun hf => ?_, fun hf hop a ha hread => ?_, fun input hi hf => ?_⟩
  · exact execStart_refused hb (acceptInput_over_capIn hf)
  · exact execStart_refused hb (acceptInput_unwritten hf (readsInput_iff.2 hop) ha hread)
  · exact execStart_refused hb (hi.acceptInput_over_capOut hf)

end Sys2Proof.Machine
end

section
/-! PROOFS. The step that takes an event off the head of the list, and the host's reads and writes
(10_state.md R26, 43_host_commands.md R131, 70_reset_and_hazards.md R174). -/

namespace Sys2Proof.Machine

/-! ## The event at the head of the list -/

theorem pop_cons {s : State} {e : Event} {rest : List Event} (hp : s.pending = e :: rest)
    (he : e ≠ .waitDone) : s.pop = { s with pending := rest } := by
  unfold State.pop
  rw [hp]
  split
  · contradiction
  · rename_i heq
    cases heq
    exact absurd rfl he
  · rename_i heq
    cases heq
    rfl

/-- The host's reads and writes of registers and buffers (R26). -/
def Event.isAccess : Event → Bool
  | .writeOp _ | .writeInLen _ | .writeIn _ _ => true
  | .readOp | .readInLen | .readIn _ | .readStatus => true
  | .readErrPos | .readOutLen | .readOut _ | .readDone => true
  | _ => false

theorem activity_of_isAccess {s : State} {e : Event} {rest : List Event} (hp : s.pending = e :: rest)
    (he : e.isAccess = true) : s.activity = .access e := by
  unfold State.activity
  rw [hp]
  cases e with
  | reset | start | call | waitDone | silent | symbolFor | indexFor | character => cases he
  | writeOp | writeInLen | writeIn | readOp | readInLen | readIn | readStatus | readErrPos | readOutLen
  | readOut | readDone => rfl

/-- A step with a host access at the head of the list is that access, the event taken off. -/
theorem step_of_isAccess {s : State} {e : Event} {rest : List Event} (hp : s.pending = e :: rest)
    (he : e.isAccess = true) : step s = hostAccess e { s with pending := rest } := by
  have hw : e ≠ .waitDone := by
    rintro rfl
    cases he
  rw [step, activity_of_isAccess hp he, pop_cons hp hw]
  rfl

/-! ## Reads -/

theorem step_readIn {s : State} {a : Nat} {rest : List Event} (hp : s.pending = .readIn a :: rest)
    (hf : fits s.cfg.capIn (a + 1) = true) :
    step s = .next { s with pending := rest, readData := some (.word (s.seenIn a)) } :=
  (step_of_isAccess hp rfl).trans (if_pos hf)

theorem step_readOut {s : State} {a : Nat} {rest : List Event} (hp : s.pending = .readOut a :: rest)
    (hf : fits s.cfg.capOut (a + 1) = true) :
    step s = .next { s with pending := rest, readData := some (.word (s.seenOut a)) } :=
  (step_of_isAccess hp rfl).trans (if_pos hf)

theorem seenIn_written {s : State} {a : Nat} {v : Byte} (h : Memory.read s.inBuf a = some v) :
    s.seenIn a = v := by
  simp [State.seenIn, h]

theorem seenIn_unwritten {s : State} {a : Nat} (h : Memory.read s.inBuf a = none) :
    s.seenIn a = Config.freeIn s.resets a := by
  simp [State.seenIn, h]

/-- The host sees a valid element of `OUT` as it is (R20). -/
theorem seenOut_valid {s : State} {a : Nat} {v : Byte} (hd : s.st = .done) (ha : a < s.outLen)
    (h : Memory.read s.outBuf a = some v) : s.seenOut a = v := by
  simp [State.seenOut, hd, ha, h]

theorem seenOut_invalid {s : State} {a : Nat} (h : s.st ≠ .done ∨ s.outLen ≤ a) :
    s.seenOut a = Config.freeOut s.resets s.starts s.optr a := by
  unfold State.seenOut
  refine if_neg ?_
  rintro ⟨hd, ha⟩
  rcases h with h | h
  · exact h hd
  · omega

/-- Settles O57: the step is the access, and each access delivers its register or element. -/
theorem hostReadsDeliverTheRegisters : Obligations.HostReadsDeliverTheRegisters := by
  intro s e rest hp
  refine ⟨fun he => step_of_isAccess (he ▸ hp) rfl, fun he => step_of_isAccess (he ▸ hp) rfl,
    fun he => step_of_isAccess (he ▸ hp) rfl, fun he => step_of_isAccess (he ▸ hp) rfl,
    fun he => step_of_isAccess (he ▸ hp) rfl, fun he => step_of_isAccess (he ▸ hp) rfl, ?_, ?_⟩
  · rintro a v rfl hf hread
    rw [step_readIn hp hf, seenIn_written hread]
  · rintro a v rfl hf hd ha hread
    rw [step_readOut hp hf, seenOut_valid hd ha hread]

theorem runSteps_two {s t u : State} (h : step s = .next t) (h' : step t = .next u) :
    runSteps 2 s = .next u := by
  simp [runSteps, h, h']

/-- Settles O58: a read of an unspecified element delivers its free byte; and what a read delivers does
not depend on what a read changes, so the second read delivers it again (R35). -/
theorem unspecifiedElementsReadAsAFreeValue : Obligations.UnspecifiedElementsReadAsAFreeValue := by
  intro s a rest
  refine ⟨fun hp hf hfree => ?_, fun hp hf hnone => ?_, fun e hp hread => ?_⟩
  · rw [step_readOut hp hf, seenOut_invalid hfree]
  · rw [step_readIn hp hf, seenIn_unwritten hnone]
  · rcases hread with ⟨rfl, hf⟩ | ⟨rfl, hf⟩
    · have first := step_readIn hp hf
      exact ⟨s.seenIn a, first, runSteps_two first (step_readIn rfl hf)⟩
    · have first := step_readOut hp hf
      exact ⟨s.seenOut a, first, runSteps_two first (step_readOut rfl hf)⟩

/-! ## Writes -/

theorem hostWrite_next {s : State} (hb : s.st ≠ .busy) (t : State) : s.hostWrite t = .next t := if_neg hb

theorem hostWrite_busy {s : State} (hb : s.st = .busy) (t : State) :
    s.hostWrite t = .refused .hostWriteWhileBusy := if_pos hb

/-- A write of an element of `IN` that exists is a host write like those of `OP` and `IN_LEN`. -/
theorem step_writeIn {s : State} {a : Nat} {v : Byte} {rest : List Event}
    (hp : s.pending = .writeIn a v :: rest) (hf : fits s.cfg.capIn (a + 1) = true) :
    step s = State.hostWrite { s with pending := rest }
      { s with pending := rest, inBuf := Memory.write s.inBuf a v } :=
  (step_of_isAccess hp rfl).trans (if_pos hf)

/-- Settles O59: every write is a `hostWrite`, which answers by `ST` alone. -/
theorem hostWritesOutsideBusyOnly : Obligations.HostWritesOutsideBusyOnly := by
  intro s e rest hp
  refine ⟨?_, ?_, ?_, ?_⟩
  · rintro v rfl hb
    exact (step_of_isAccess hp rfl).trans (hostWrite_next hb _)
  · rintro n rfl hb
    exact (step_of_isAccess hp rfl).trans (hostWrite_next hb _)
  · rintro a v rfl hb hf
    exact ⟨Memory.write s.inBuf a v, (step_writeIn hp hf).trans (hostWrite_next hb _),
      Memory.read_write_same .., fun b hba => Memory.read_write_other _ _ hba⟩
  · rintro hb (⟨v, rfl⟩ | ⟨n, rfl⟩ | ⟨a, v, rfl, hf⟩)
    · exact (step_of_isAccess hp rfl).trans (hostWrite_busy hb _)
    · exact (step_of_isAccess hp rfl).trans (hostWrite_busy hb _)
    · exact (step_writeIn hp hf).trans (hostWrite_busy hb _)

end Sys2Proof.Machine
end

section
/-! PROOFS. The state after reset (10_state.md R25, 40_alphabet_table.md R67), and the result of a whole
operation as a function of its input (10_state.md R24). -/

namespace Sys2Proof.Machine

/-! ## The reverse table after reset -/

/-- The entry of `REV` that stands for an answer of INDEX_FOR (R56, R66). -/
def revEntOf : Option Sextet → RevEnt
  | none => revNone
  | some i => { valid := true, idx := i }

theorem indexOf_of_revAt {rev : Rev} {c : Byte} {o : Option Sextet} (h : revAt rev c = revEntOf o) :
    indexOf rev c = o := by
  cases o <;> simp [indexOf, h, revEntOf, revNone]

theorem revAt_builtRev : ∀ c : Byte, revAt builtRev c = revEntOf (indexClosed c) := by decide

/-- An entry without a value holds index 0 (R13). -/
theorem idx_revEntOf {o : Option Sextet} (h : (revEntOf o).valid = false) : (revEntOf o).idx = 0 := by
  cases o with
  | none => rfl
  | some i => cases h

/-- Settles O54: `REV` entry by entry, the registers by the definition of `State.reset`. -/
theorem resetStateHasTheSpecsValues : Obligations.ResetStateHasTheSpecsValues := by
  refine ⟨fun c => indexOf_of_revAt (revAt_builtRev c), fun c hc => ?_,
    rfl, rfl, rfl, rfl, rfl, rfl, rfl, rfl, rfl, rfl, rfl, rfl, rfl, rfl⟩
  have hrev : revAt State.reset.rev c = revEntOf (indexClosed c) := revAt_builtRev c
  rw [hrev] at hc ⊢
  exact idx_revEntOf hc

/-! ## The result of a whole operation -/

theorem State.HasInput.unique {s : State} {first second : List Byte} (h : s.HasInput first)
    (h' : s.HasInput second) : first = second :=
  Option.some.inj ((hasInput_iff.1 h).1.symm.trans (hasInput_iff.1 h').1)

theorem resultLength_encode (rev : Rev) (input : List Byte) :
    resultLength rev 0 input = (encodeBytes input).length := if_pos rfl

/-- Everything an ENCODE that answers a next state can do. -/
theorem execEncode_cases {s t : State} (hb : s.st ≠ .busy) (h : execEncode s = .next t) :
    ∃ input, s.HasInput input ∧ fits s.cfg.capOut (encodeBytes input).length = true ∧
      t = (s.beginOperation 0).succeedWith (encodeBytes input) .pEnc 0 := by
  unfold execEncode at h
  rw [if_neg hb] at h
  cases ha : s.acceptInput 0 with
  | error r =>
    rw [ha] at h
    cases h
  | ok input =>
    obtain ⟨hi, hf⟩ := (acceptInput_eq_ok (readsInput_iff.2 (.inl rfl))).1 ha
    rw [ha] at h
    cases h
    exact ⟨input, hi, resultLength_encode s.rev input ▸ hf, rfl⟩

/-- `OUT_LEN` and `OUT` after a success are those of `out`, whatever `OUT` held before. -/
theorem succeedWith_outputSeq (s : State) (out : List Byte) (p : Phase) (n : Nat) :
    (s.succeedWith out p n).outputSeq = some out := by
  simp [State.outputSeq, Memory.readSeq_writeSeq]

theorem result_succeedWith (s : State) (op : OpCode) (out : List Byte) (p : Phase) (n : Nat) :
    ((s.beginOperation op).succeedWith out p n).result =
      { err := .none, errPos := 0, outLen := out.length, output := some out } := by
  simp [State.result, succeedWith_outputSeq]

theorem result_failWith (s : State) (f : DecodeFailure) (text : List Byte) :
    (s.failWith f text).result = { err := f.kind, errPos := f.pos, outLen := 0, output := some [] } :=
  rfl

theorem result_endDecode (s : State) (text : List Byte) :
    (s.endDecode text).result = decodeResult s.rev text := by
  unfold State.endDecode decodeResult
  cases decodeText s.rev text with
  | ok bytes => exact result_succeedWith s 1 bytes .pDec _
  | error f => exact result_failWith _ f text

theorem execEncode_result {s t : State} {input : List Byte} (hb : s.st ≠ .busy) (hi : s.HasInput input)
    (h : execEncode s = .next t) : t.result = encodeResult input := by
  obtain ⟨input', hi', -, rfl⟩ := execEncode_cases hb h
  rw [hi.unique hi']
  exact result_succeedWith s 0 _ _ _

theorem execDecode_result {s t : State} {text : List Byte} (hb : s.st ≠ .busy) (hi : s.HasInput text)
    (h : execDecode s = .next t) : t.result = decodeResult s.rev text := by
  rcases execDecode_cases hb h with ⟨hl, rfl⟩ | ⟨text', hi', -, rfl⟩
  · rw [result_failWith, decodeResult, decodeText_badLength (hi.1 ▸ hl)]
  · rw [hi.unique hi']
    exact result_endDecode s text'

/-- Settles O41: either operation ends with the result its function gives the input. -/
theorem resultDependsOnTheInputOnly : Obligations.ResultDependsOnTheInputOnly := by
  rintro input i s s' t t' (rfl | rfl) hb hb' hrev hi hi' h h'
  · exact (execEncode_result hb hi h).trans (execEncode_result hb' hi' h').symm
  · rw [execDecode_result hb hi h, execDecode_result hb' hi' h', hrev]

end Sys2Proof.Machine
end

section
/-! PROOFS. What the two functions give for the groups before a place in the input and for the group at
that place, as the runs need it (41_encoder.md R85, 42_decoder.md R108). -/

namespace Sys2Proof.Machine

/-- R86: every group, whole or not, gives four characters. -/
theorem encodeBytes_length (input : List Byte) :
    (encodeBytes input).length = 4 * ((input.length + 2) / 3) := by
  induction input using encodeBytes.induct with
  | case1 b0 b1 b2 rest ih =>
    simp only [encodeBytes, enc3Chars, List.length_append, List.length_cons, List.length_nil, ih]
    omega
  | case2 b0 b1 => simp [encodeBytes, enc2Chars]
  | case3 b0 => simp [encodeBytes, enc1Chars]
  | case4 => rfl

/-- R91: whole groups are encoded by themselves. -/
theorem encodeBytes_append {first : List Byte} (h : first.length % 3 = 0) (second : List Byte) :
    encodeBytes (first ++ second) = encodeBytes first ++ encodeBytes second := by
  induction first using encodeBytes.induct with
  | case1 b0 b1 b2 rest ih =>
    simp only [List.cons_append, encodeBytes, List.append_assoc]
    rw [ih (by simp only [List.length_cons] at h; omega)]
  | case2 b0 b1 => simp at h
  | case3 b0 => simp at h
  | case4 => rfl

/-- The output of the groups up to the end of the run at `i` (R85). -/
theorem encodeBytes_take_run {input : List Byte} {i : Nat} (h3 : i % 3 = 0) (hi : i ≤ input.length) :
    encodeBytes (input.take (i + ((input.drop i).take 3).length)) =
      encodeBytes (input.take i) ++ encodeBytes ((input.drop i).take 3) := by
  have hrun : (input.drop i).take ((input.drop i).take 3).length = (input.drop i).take 3 := by
    rw [List.take_eq_take_iff]
    simp
  rw [List.take_add, hrun, encodeBytes_append (by rw [List.length_take_of_le hi, h3])]

/-- The output of the whole input has room for the run at `i`. -/
theorem encodeBytes_take_room {input : List Byte} {i : Nat} (h3 : i % 3 = 0) (hi : i < input.length) :
    (encodeBytes (input.take i)).length + 4 ≤ (encodeBytes input).length := by
  rw [encodeBytes_length, encodeBytes_length, List.length_take_of_le (by omega)]
  omega

/-- The output of the groups up to the end of the group at `i` (R108). -/
theorem decodeGroups_take_add (rev : Rev) {text : List Byte} {i : Nat} (h4 : i % 4 = 0)
    (hi : i ≤ text.length) :
    decodeGroups rev (text.take (i + 4)) =
      decodeGroups rev (text.take i) ++ decodeGroups rev ((text.drop i).take 4) := by
  rw [List.take_add, decodeGroups_append _ _ _ (by rw [List.length_take_of_le hi, h4])]

/-- The output of the whole text has room for the group at `i`. -/
theorem decodeGroups_take_room (rev : Rev) {text : List Byte} {i : Nat} (h4 : i % 4 = 0)
    (hi : i + 4 ≤ text.length) :
    (decodeGroups rev (text.take i)).length + (decodeGroups rev ((text.drop i).take 4)).length ≤
      (decodeGroups rev text).length := by
  have hwhole : (text.take i).length % 4 = 0 := by rw [List.length_take_of_le (by omega), h4]
  have hsplit : decodeGroups rev text =
      decodeGroups rev (text.take i) ++ decodeGroups rev (text.drop i) := by
    rw [← decodeGroups_append _ _ _ hwhole, List.take_append_drop]
  rw [hsplit, decodeGroups_drop rev text i hi, List.length_append, List.length_append]
  omega

/-- A text that passes the checks needs the room of its bytes (R6, R100). -/
theorem resultLength_decode {rev : Rev} {text : List Byte} (hp : PadsChecked text)
    (hc : firstBadChar rev text = none) :
    resultLength rev 1 text = (decodeGroups rev text).length := by
  have hok : decodeText rev text = .ok (decodeGroups rev text) :=
    decodeText_eq_ok.2 ⟨hp.1, hp.2, hc, rfl⟩
  rw [resultLength, if_neg (by decide), hok]

/-- Only InvalidPadding and InvalidCharacter have a position (R151). -/
theorem decodeText_error_pos {rev : Rev} {text : List Byte} {f : DecodeFailure}
    (h : decodeText rev text = .error f) (hk : f.kind = .none ∨ f.kind = .invalidLength) : f.pos = 0 := by
  unfold decodeText at h
  split at h
  · cases h
    rfl
  · split at h
    · cases h
      rcases hk with hk | hk <;> cases hk
    · split at h <;> cases h
      rcases hk with hk | hk <;> cases hk

end Sys2Proof.Machine
end

section
/-! PROOFS. Every step keeps the invariant: first what the invariant rests on, then one lemma for each way
a step can change the block (the host's accesses, reset, the operations, the sequencer's steps). -/

namespace Sys2Proof.Machine

/-! ## What the invariant rests on -/

/-- The invariant says nothing of the model's own fields. -/
theorem Inv.ownFields {s : State} (h : Inv s) (p : List Event) (r : Option HostValue)
    (m : Option Mapping) : Inv { s with pending := p, readData := r, mapped := m } :=
  ⟨h.inWf, h.outWf, h.revBuilt, h.clear, h.noPartial, h.position, h.written, h.busy⟩

theorem pop_eq (s : State) : s.pop = { s with pending := s.pop.pending } := by
  unfold State.pop
  split
  · rfl
  · split <;> rfl
  · rfl

theorem Inv.pop {s : State} (h : Inv s) : Inv s.pop := by
  rw [pop_eq]
  exact h.ownFields _ _ _

/-- A step that keeps the block `BUSY` has to keep what the operation has established. -/
theorem Inv.staysBusy {s t : State} (h : Inv s) (hb : s.st = .busy) (hin : t.inBuf = s.inBuf)
    (hout : Memory.wf t.outBuf = true) (hrev : t.rev = s.rev) (hst : t.st = s.st) (herr : t.err = s.err)
    (hpos : t.errPos = s.errPos) (hlen : t.outLen = s.outLen)
    (hbusy : ∃ input, t.BusyOn input) : Inv t := by
  have hbt : t.st = .busy := hst.trans hb
  exact {
    inWf := hin ▸ h.inWf
    outWf := hout
    revBuilt := hrev.trans h.revBuilt
    clear := fun _ => by
      rw [herr, hpos, hlen]
      exact h.clear (by simp [hb])
    noPartial := by simp [hbt]
    position := by simp [hbt]
    written := by simp [hbt]
    busy := fun _ => .inr hbusy }

/-- An operation that ends in success has written its output. -/
theorem Inv.succeed {s t : State} (h : Inv s) (hin : t.inBuf = s.inBuf)
    (hout : Memory.wf t.outBuf = true) (hrev : t.rev = s.rev) (hst : t.st = .done) (herr : t.err = .none)
    (hpos : t.errPos = 0) (hwritten : ∃ out, t.outputSeq = some out) : Inv t where
  inWf := hin ▸ h.inWf
  outWf := hout
  revBuilt := hrev.trans h.revBuilt
  clear := by simp [hst]
  noPartial := by simp [herr]
  position := fun _ _ => hpos
  written := fun _ => hwritten
  busy := by simp [hst]

/-- An operation that ends in an error has no output, and a position only if the error has one. -/
theorem Inv.fail {s t : State} (h : Inv s) (hin : t.inBuf = s.inBuf) (hout : t.outBuf = s.outBuf)
    (hrev : t.rev = s.rev) (hst : t.st = .done) (hlen : t.outLen = 0)
    (hpos : t.err = .none ∨ t.err = .invalidLength → t.errPos = 0) : Inv t where
  inWf := hin ▸ h.inWf
  outWf := hout ▸ h.outWf
  revBuilt := hrev.trans h.revBuilt
  clear := by simp [hst]
  noPartial := fun _ _ => hlen
  position := fun _ => hpos
  written := fun _ => ⟨[], by rw [State.outputSeq, hlen]; rfl⟩
  busy := by simp [hst]

/-! ## The host's accesses, the table accesses and reset -/

theorem Inv.deliver {s : State} (h : Inv s) (v : HostValue) : Inv (s.deliver v) := h.ownFields _ _ _

theorem Inv.showMapping {s : State} (h : Inv s) (m : Mapping) : Inv (s.showMapping m) :=
  h.ownFields _ _ _

/-- Outside `BUSY` the host may write what it likes to `OP`, `IN_LEN` and `IN`. -/
theorem Inv.hostRegisters {s : State} (h : Inv s) (hb : s.st ≠ .busy) (op : OpCode) (n : Nat) {m : Memory}
    (hm : Memory.wf m = true) : Inv { s with op := op, inLen := n, inBuf := m } :=
  ⟨hm, h.outWf, h.revBuilt, h.clear, h.noPartial, h.position, h.written, fun hb' => absurd hb' hb⟩

theorem hostWrite_cases {s u t : State} (h : s.hostWrite u = .next t) : s.st ≠ .busy ∧ t = u := by
  unfold State.hostWrite at h
  split at h
  · cases h
  · cases h
    exact ⟨‹_›, rfl⟩

theorem Inv.hostAccess {s t : State} {e : Event} (h : Inv s) (hs : hostAccess e s = .next t) : Inv t := by
  cases e with
  | reset | start | call | waitDone | silent | symbolFor | indexFor | character =>
    cases hs
    exact h
  | writeOp v =>
    obtain ⟨hb, rfl⟩ := hostWrite_cases hs
    exact h.hostRegisters hb _ _ h.inWf
  | writeInLen n =>
    obtain ⟨hb, rfl⟩ := hostWrite_cases hs
    exact h.hostRegisters hb _ _ h.inWf
  | writeIn a v =>
    simp only [Machine.hostAccess, hostWriteIn] at hs
    split at hs
    · obtain ⟨hb, rfl⟩ := hostWrite_cases hs
      exact h.hostRegisters hb _ _ (Memory.write_wf a v h.inWf)
    · cases hs
  | readOp | readInLen | readStatus | readErrPos | readOutLen | readDone =>
    cases hs
    exact h.deliver _
  | readIn a =>
    simp only [Machine.hostAccess, hostReadIn] at hs
    split at hs
    · cases hs
      exact h.deliver _
    · cases hs
  | readOut a =>
    simp only [Machine.hostAccess, hostReadOut] at hs
    split at hs
    · cases hs
      exact h.deliver _
    · cases hs

/-- A symbol row runs as its index (R50). -/
theorem exec_of_symbolIndex {i : Instr} {k : Sextet} (h : symbolIndex i = some k) (s : State) :
    exec i s = showSymbol k s := by
  cases i <;> cases h <;> rfl

theorem Inv.character {s t : State} {c : Byte} (h : Inv s) (hs : runPacket (.sym c) s = .next t) :
    Inv t := by
  simp only [runPacket, decode] at hs
  cases hi : decodeSym c with
  | error r =>
    rw [hi] at hs
    cases hs
  | ok i =>
    rw [hi] at hs
    change exec i s = .next t at hs
    rcases decodeSym_row hi with hrow | rfl
    · obtain ⟨k, hk⟩ := Option.isSome_iff_exists.1 hrow
      rw [exec_of_symbolIndex hk] at hs
      cases hs
      exact h.showMapping _
    · cases hs
      exact h.showMapping _

/-- Reset leaves a state that meets the invariant whatever came before (R170). -/
theorem inv_afterReset (s : State) : Inv (State.resetRegs { s with rev := builtRev }) where
  inWf := rfl
  outWf := rfl
  revBuilt := rfl
  clear := fun _ => ⟨rfl, rfl, rfl⟩
  noPartial := nofun
  position := nofun
  written := nofun
  busy := nofun

/-! ## The commands -/

/-- Everything a START that answers a next state outside `BUSY` can do. -/
theorem execStart_cases {s t : State} (hb : s.st ≠ .busy) (h : execStart s = .next t) :
    t = s.beginOperation s.op ∧ ((s.op ≠ 0 ∧ s.inLen % 4 ≠ 0) ∨
      ∃ input, s.HasInput input ∧ fits s.cfg.capOut (resultLength s.rev s.op input) = true) := by
  unfold execStart at h
  rw [if_neg hb] at h
  cases ha : s.acceptInput s.op with
  | error r =>
    rw [ha] at h
    cases h
  | ok input =>
    rw [ha] at h
    cases h
    refine ⟨rfl, ?_⟩
    cases hr : s.readsInput s.op with
    | true => exact .inr ⟨input, (acceptInput_eq_ok hr).1 ha⟩
    | false =>
      left
      rw [← not_or, ← readsInput_iff, hr]
      exact Bool.false_ne_true

/-- Before the first group nothing has been put out. -/
theorem hasOutput_nil {s : State} (h : s.optr = 0) : s.HasOutput [] := by
  refine ⟨h, ?_⟩
  rw [h]
  rfl

/-- What START establishes for the first step of either operation (R130). -/
theorem State.HasInput.beginOperation {s : State} {input : List Byte} (hi : s.HasInput input)
    {op : OpCode} (hf : fits s.cfg.capOut (resultLength s.rev op input) = true) :
    (s.beginOperation op).BusyOn input := by
  refine ⟨hi.congr rfl rfl rfl, ?_⟩
  by_cases ho : op = 0
  · subst ho
    rw [resultLength_encode] at hf
    exact ⟨hf, Nat.zero_le _, .inl rfl, hasOutput_nil rfl⟩
  · obtain rfl : op = 1 := (BitVec.eq_zero_or_eq_one op).resolve_left ho
    exact hf

theorem Inv.execStart {s t : State} (h : Inv s) (hs : execStart s = .next t) : Inv t := by
  by_cases hb : s.st = .busy
  · rw [Machine.execStart, if_pos hb] at hs
    cases hs
    exact h
  obtain ⟨rfl, hinput⟩ := execStart_cases hb hs
  exact {
    inWf := h.inWf
    outWf := h.outWf
    revBuilt := h.revBuilt
    clear := fun _ => ⟨rfl, rfl, rfl⟩
    noPartial := nofun
    position := nofun
    written := nofun
    busy := fun _ => by
      rcases hinput with ⟨hop, hl⟩ | ⟨input, hi, hf⟩
      · exact .inl ⟨if_neg hop, hl⟩
      · exact .inr ⟨input, hi.beginOperation hf⟩ }

theorem Inv.succeedWith {s : State} (h : Inv s) (op : OpCode) (out : List Byte) (p : Phase) (n : Nat) :
    Inv ((s.beginOperation op).succeedWith out p n) :=
  h.succeed rfl (Memory.writeSeq_wf 0 out h.outWf) rfl rfl rfl rfl ⟨out, succeedWith_outputSeq ..⟩

theorem Inv.failWith {s : State} (h : Inv s) (op : OpCode) {f : DecodeFailure} (text : List Byte)
    (hf : f.kind = .none ∨ f.kind = .invalidLength → f.pos = 0) :
    Inv ((s.beginOperation op).failWith f text) := h.fail rfl rfl rfl rfl rfl hf

theorem Inv.execEncode {s t : State} (h : Inv s) (hs : execEncode s = .next t) : Inv t := by
  by_cases hb : s.st = .busy
  · rw [Machine.execEncode, if_pos hb] at hs
    cases hs
    exact h
  · obtain ⟨input, -, -, rfl⟩ := execEncode_cases hb hs
    exact h.succeedWith ..

theorem Inv.execDecode {s t : State} (h : Inv s) (hs : execDecode s = .next t) : Inv t := by
  by_cases hb : s.st = .busy
  · rw [Machine.execDecode, if_pos hb] at hs
    cases hs
    exact h
  rcases execDecode_cases hb hs with ⟨-, rfl⟩ | ⟨text, -, -, rfl⟩
  · exact h.failWith _ _ fun _ => rfl
  · unfold State.endDecode
    cases hd : decodeText s.rev text with
    | ok bytes => exact h.succeedWith ..
    | error f => exact h.failWith _ _ (decodeText_error_pos hd)

/-- `call` runs the operation that the command code names (R55). -/
theorem Inv.command {s t : State} {w : OpCode} (h : Inv s) (hs : runPacket (.cmd w) s = .next t) :
    Inv t := by
  by_cases hw : w = 0
  · rw [runPacket, decode, if_pos hw] at hs
    exact h.execEncode hs
  · rw [runPacket, decode, if_neg hw] at hs
    exact h.execDecode hs

/-! ## The sequencer's steps -/

/-- The output of a group goes behind the output of the groups before it. -/
theorem State.HasOutput.emitGroup {s : State} {out more : List Byte} {n : Nat} {w : GroupWord}
    {v0 v1 v2 v3 : Sextet} (h : s.HasOutput out) :
    ((s.loadGroup w v0 v1 v2 v3).emit n more).HasOutput (out ++ more) := by
  obtain ⟨hl, hr⟩ := h
  refine ⟨by simp [hl], ?_⟩
  have before : Memory.readSeq (Memory.writeSeq s.outBuf out.length more) 0 out.length = some out := by
    rw [← hr, hl]
    refine Memory.readSeq_congr fun i hi => Memory.read_writeSeq_outside _ _ _ _ (.inl (by omega))
  have behind := Memory.readSeq_writeSeq s.outBuf out.length more
  have both := Memory.readSeq_append before (by simpa using behind)
  simpa [hl] using both

theorem Inv.finish {s : State} {out : List Byte} (h : Inv s) (hb : s.st = .busy) (ho : s.HasOutput out) :
    Inv s.finish := by
  obtain ⟨herr, hpos, -⟩ := h.clear (by simp [hb])
  exact h.succeed rfl h.outWf rfl rfl herr hpos ⟨out, ho.2⟩

theorem Inv.raise {s : State} (h : Inv s) {k : Err} {pos : Nat}
    (hk : k = .none ∨ k = .invalidLength → pos = 0) : Inv (s.raise k pos) :=
  h.fail rfl rfl rfl rfl rfl hk

/-- A group step keeps the invariant if it keeps what the operation has established. -/
theorem Inv.emitGroup {s : State} (h : Inv s) (hb : s.st = .busy) {w : GroupWord} {v0 v1 v2 v3 : Sextet}
    {n : Nat} {out input : List Byte}
    (hbusy : ((s.loadGroup w v0 v1 v2 v3).emit n out).BusyOn input) :
    Inv ((s.loadGroup w v0 v1 v2 v3).emit n out) :=
  h.staysBusy hb rfl (Memory.writeSeq_wf s.optr out h.outWf) rfl rfl rfl rfl rfl ⟨input, hbusy⟩

theorem Inv.execChkLen {s t : State} (h : Inv s) (hb : s.st = .busy) (hp : s.phase = .pChkLen)
    (hs : execChkLen s = .next t) : Inv t := by
  unfold Machine.execChkLen at hs
  split at hs
  · cases hs
    exact h.raise fun _ => rfl
  · rename_i hl
    cases hs
    rcases h.busy hb with ⟨-, hbad⟩ | ⟨input, hi, hphase⟩
    · exact absurd hbad hl
    · simp only [hp] at hphase
      refine h.staysBusy hb rfl h.outWf rfl rfl rfl rfl rfl
        ⟨input, hi.congr rfl rfl rfl, hphase, ?_⟩
      rw [← hi.1]
      omega

/-- Past CHKLEN a `BUSY` block works on a written input. -/
theorem Inv.busyOn {s : State} (h : Inv s) (hb : s.st = .busy) (hp : s.phase ≠ .pChkLen) :
    ∃ input, s.BusyOn input := by
  rcases h.busy hb with ⟨hp', -⟩ | hinput
  · exact absurd hp' hp
  · exact hinput

theorem Inv.execChkPad {s t : State} (h : Inv s) (hb : s.st = .busy) (hp : s.phase = .pChkPad)
    (hs : execChkPad s = .next t) : Inv t := by
  obtain ⟨input, hi, hphase⟩ := h.busyOn hb (by simp [hp])
  simp only [hp] at hphase
  obtain ⟨hf, hl⟩ := hphase
  simp only [Machine.execChkPad, hi.readText] at hs
  cases hpad : firstBadPad input with
  | some i =>
    rw [hpad] at hs
    cases hs
    exact h.raise (by simp)
  | none =>
    rw [hpad] at hs
    cases hs
    have htwo : trailingPads input ≤ 2 := (padsAre_trailingPads hpad).1
    refine h.staysBusy hb rfl h.outWf rfl rfl rfl rfl rfl
      ⟨input, hi.congr rfl rfl rfl, hf, ⟨hl, hpad⟩, ?_⟩
    rw [passPads_npad, BitVec.toNat_ofNat]
    omega

theorem Inv.execChkChr {s t : State} (h : Inv s) (hb : s.st = .busy) (hp : s.phase = .pChkChr)
    (hs : execChkChr s = .next t) : Inv t := by
  obtain ⟨input, hi, hphase⟩ := h.busyOn hb (by simp [hp])
  simp only [hp] at hphase
  obtain ⟨hf, hpads, hnpad⟩ := hphase
  simp only [Machine.execChkChr, hi.readText] at hs
  cases hchr : firstBadChar s.rev input with
  | some i =>
    rw [hchr] at hs
    cases hs
    exact h.raise (by simp)
  | none =>
    rw [hchr] at hs
    cases hs
    exact h.staysBusy hb rfl h.outWf rfl rfl rfl rfl rfl
      ⟨input, hi.congr rfl rfl rfl, hf, hpads, hchr, hnpad, Nat.zero_le _, rfl, hasOutput_nil rfl⟩

/-- A quiet step in `P_ENC`: ENC_FIN behind the last group, else the next group (R81 to R85). -/
theorem Inv.encodeStep {s t : State} (h : Inv s) (hq : s.hostQuiet = true) (hb : s.st = .busy)
    (hp : s.phase = .pEnc) (hs : step s = .next t) : Inv t := by
  obtain ⟨input, hi, hphase⟩ := h.busyOn hb (by simp [hp])
  simp only [hp] at hphase
  obtain ⟨hf, hle, hgroup, hout⟩ := hphase
  have hbp : s.pop.st = .busy := by simpa using hb
  have houtp : s.pop.HasOutput (encodeBytes (input.take s.iptr)) := by simpa [State.HasOutput] using hout
  rcases Nat.eq_or_lt_of_le hle with heq | hlt
  · rw [quiet_step hq hb, State.selectStep, hp] at hs
    simp only [State.selectEncode, hi.1, heq, lt_irrefl, if_true, if_false] at hs
    cases hs
    exact h.pop.finish hbp houtp
  have h3 : s.iptr % 3 = 0 := hgroup.resolve_right (by omega)
  have hroom : fits s.cfg.capOut (s.optr + 4) = true :=
    fits_mono hf (hout.1 ▸ encodeBytes_take_room h3 hlt)
  obtain ⟨w, v0, v1, v2, v3, hnext⟩ := encode_group_step hq hb hp hi hlt hroom
  rw [hnext] at hs
  cases hs
  have hrun : ((input.drop s.iptr).take 3).length = min 3 (input.length - s.iptr) := by simp
  refine h.pop.emitGroup hbp ⟨hi.congr (by simp) (by simp) (by simp), ?_⟩
  simp only [emit_phase, emit_iptr, emit_cfg, loadGroup_phase, loadGroup_iptr, loadGroup_cfg, pop_phase,
    pop_iptr, pop_cfg, hp]
  refine ⟨hf, by omega, by omega, ?_⟩
  rw [encodeBytes_take_run h3 hle]
  exact houtp.emitGroup

/-- A quiet step in `P_DEC`: DEC_FIN behind the last group, else the next group (R104 to R107). -/
theorem Inv.decodeStep {s t : State} (h : Inv s) (hq : s.hostQuiet = true) (hb : s.st = .busy)
    (hp : s.phase = .pDec) (hs : step s = .next t) : Inv t := by
  obtain ⟨input, hi, hphase⟩ := h.busyOn hb (by simp [hp])
  simp only [hp] at hphase
  obtain ⟨hf, hpads, hchr, hnpad, hle, h4, hout⟩ := hphase
  have hbp : s.pop.st = .busy := by simpa using hb
  have houtp : s.pop.HasOutput (decodeGroups s.rev (input.take s.iptr)) := by
    simpa [State.HasOutput] using hout
  rcases Nat.eq_or_lt_of_le hle with heq | hlt
  · rw [quiet_step hq hb, State.selectStep, hp] at hs
    simp only [State.selectDecode, hi.1, heq, lt_irrefl, if_true, if_false] at hs
    cases hs
    exact h.pop.finish hbp houtp
  have hend : s.iptr + 4 ≤ input.length := by
    have := hpads.1
    omega
  have hroom : fits s.cfg.capOut
      (s.optr + (decodeGroups s.rev ((input.drop s.iptr).take 4)).length) = true := by
    rw [resultLength_decode hpads hchr] at hf
    exact fits_mono hf (hout.1 ▸ decodeGroups_take_room s.rev h4 hend)
  obtain ⟨w, v0, v1, v2, v3, hnext⟩ := decode_group_step hq hb hp hi hend hroom
  rw [hnext] at hs
  cases hs
  refine h.pop.emitGroup hbp ⟨hi.congr (by simp) (by simp) (by simp), ?_⟩
  simp only [emit_phase, emit_iptr, emit_cfg, emit_npad, emit_rev, loadGroup_phase, loadGroup_iptr,
    loadGroup_cfg, loadGroup_npad, loadGroup_rev, pop_phase, pop_iptr, pop_cfg, pop_npad, pop_rev, hp]
  refine ⟨hf, hpads, hchr, hnpad, hend, by omega, ?_⟩
  rw [decodeGroups_take_add _ h4 hle]
  exact houtp.emitGroup

/-- A quiet step of a `BUSY` block keeps the invariant, phase by phase (R132). -/
theorem Inv.busyStep {s t : State} (h : Inv s) (hq : s.hostQuiet = true) (hb : s.st = .busy)
    (hs : step s = .next t) : Inv t := by
  have hbp : s.pop.st = .busy := by simpa using hb
  have hselect := hs
  rw [quiet_step hq hb, State.selectStep] at hselect
  cases hp : s.phase with
  | pEnc => exact h.encodeStep hq hb hp hs
  | pDec => exact h.decodeStep hq hb hp hs
  | pChkLen =>
    rw [hp] at hselect
    exact h.pop.execChkLen hbp (by simpa using hp) hselect
  | pChkPad =>
    rw [hp] at hselect
    exact h.pop.execChkPad hbp (by simpa using hp) hselect
  | pChkChr =>
    rw [hp] at hselect
    exact h.pop.execChkChr hbp (by simpa using hp) hselect

theorem Inv.quietStep {s t : State} (h : Inv s) (hq : s.hostQuiet = true) (hs : step s = .next t) :
    Inv t := by
  by_cases hb : s.st = .busy
  · exact h.busyStep hq hb hs
  · rw [step, hostQuiet_activity hq, State.sequencer, if_neg hb] at hs
    cases hs
    exact h.pop

/-- Settles O51: a quiet step by the phase, any other by the event at the head of the list. -/
theorem everyStepKeepsTheInvariant : Obligations.EveryStepKeepsTheInvariant := by
  intro s t h hs
  cases hp : s.pending with
  | nil => exact h.quietStep (hostQuiet_of_pending_nil hp) hs
  | cons e rest =>
    have hact := hs
    simp only [step, State.activity, hp, perform] at hact
    cases e with
    | waitDone | silent => exact h.quietStep (by simp [State.hostQuiet, hp]) hs
    | reset =>
      cases hact
      exact inv_afterReset _
    | start => exact h.pop.execStart hact
    | call => exact h.pop.command hact
    | symbolFor i =>
      cases hact
      exact h.pop.showMapping _
    | indexFor c =>
      cases hact
      exact h.pop.showMapping _
    | character c => exact h.pop.character hact
    | writeOp | writeInLen | writeIn | readOp | readInLen | readIn | readStatus | readErrPos
    | readOutLen | readOut | readDone => exact h.pop.hostAccess hact

end Sys2Proof.Machine
end

section
/-! PROOFS. Where a step stops rather than pick a value: no room below `CAP_OUT` (20_memory.md R30), an
element of `IN` never written (R44). -/

namespace Sys2Proof.Machine

/-! ## No room below `CAP_OUT` -/

/-- The instructions that store are the group steps: each ends in `groupStep`, with as many elements as
`storedCount` says. -/
theorem exec_eq_groupStep {i : Instr} (h : storedCount i ≠ 0) (s : State) :
    ∃ w v0 v1 v2 v3 taken out,
      exec i s = s.groupStep w v0 v1 v2 v3 taken out ∧ out.length = storedCount i := by
  cases i with
  | enc3 | enc2 | enc1 | dec4 | dec3 | dec2 => exact ⟨_, _, _, _, _, _, _, rfl, rfl⟩
  | _ => exact absurd rfl h

theorem groupStep_noRoom {s : State} {w : GroupWord} {v0 v1 v2 v3 : Sextet} {n : Nat} {out : List Byte}
    (h : fits s.cfg.capOut (s.optr + out.length) = false) :
    s.groupStep w v0 v1 v2 v3 n out = .fault (.noSuchAddress .outSpace (s.optr + out.length - 1)) := by
  simp [State.groupStep, h]

/-! ## An element of `IN` never written -/

/-- A run of reads stops at the first element that was never written. -/
theorem readInSeq_unwritten {s : State} {first n a : Nat} (hf : fits s.cfg.capIn (first + n) = true)
    (hle : first ≤ a) (hlt : a < first + n) (hnone : Memory.read s.inBuf a = none)
    (hbefore : ∀ b, first ≤ b → b < a → Memory.read s.inBuf b ≠ none) :
    s.readInSeq first n = .error (.unwrittenRead a) := by
  induction n generalizing first with
  | zero => omega
  | succ n ih =>
    have hfits : fits s.cfg.capIn (first + 1) = true := fits_mono hf (by omega)
    rcases Nat.eq_or_lt_of_le hle with rfl | hlt'
    · simp [State.readInSeq, State.readIn, hfits, hnone]
    · obtain ⟨v, hv⟩ := Option.ne_none_iff_exists'.1 (hbefore first le_rfl hlt')
      have hrest : s.readInSeq (first + 1) n = .error (.unwrittenRead a) :=
        ih (fits_mono hf (by omega)) hlt' (by omega) fun b hb => hbefore b (by omega)
      simp [State.readInSeq, readIn_eq_ok.2 ⟨hfits, hv⟩, hrest]

theorem fetchRun_stuck {s : State} {n : Nat} {f : Fault} (pack : List Byte → Packet)
    (h : s.readInSeq s.iptr n = .error f) : s.fetchRun n pack = .stuck f := by
  simp [State.fetchRun, h]

/-- A step whose fetch stops is that stop. -/
theorem quiet_step_stuck {s : State} {f : Fault} (hq : s.hostQuiet = true) (hb : s.st = .busy)
    (h : s.selectStep = .stuck f) : step s = .fault f := by
  rw [quiet_step hq hb, h]
  rfl

theorem selectEncode_fetch {s : State} (h : s.iptr < s.inLen) :
    s.selectEncode =
      s.fetchRun (min 3 (s.inLen - s.iptr)) fun run => .g24 run.length (groupOfRun run) := by
  rw [State.selectEncode, if_neg (by omega), if_neg (by omega)]

theorem selectDecode_fetch {s : State} (h : s.iptr < s.inLen) :
    s.selectDecode = s.fetchRun 4 fun run => .c32 (charsOfRun run) := by
  rw [State.selectDecode, if_neg (by omega), if_neg (by omega)]

/-- Settles O25: a group step by its `groupStep`, the others by the run of reads they begin with. -/
theorem stepsStopRatherThanPick : Obligations.StepsStopRatherThanPick := by
  refine ⟨fun i s hi hf => ?_, fun i s a hi hf ha hnone hbefore => ?_,
    fun s a hq hb hle hnone hbefore => ⟨fun hp hf ha => ?_, fun hp hlt hf ha => ?_⟩⟩
  · obtain ⟨w, v0, v1, v2, v3, taken, out, hexec, hlen⟩ := exec_eq_groupStep hi s
    rw [← hlen] at hf ⊢
    exact hexec.trans (groupStep_noRoom hf)
  · have htext : s.readText = .error (.unwrittenRead a) :=
      readInSeq_unwritten (by simpa using hf) (Nat.zero_le a) (by simpa using ha) hnone
        fun b _ => hbefore b
    rcases hi with rfl | rfl
    · simp [exec, execChkPad, htext]
    · simp [exec, execChkChr, htext]
  · have hrun := readInSeq_unwritten (fits_mono hf (by omega)) hle ha hnone hbefore
    refine quiet_step_stuck hq hb ?_
    rw [State.selectStep, hp]
    exact (selectEncode_fetch (by omega)).trans (fetchRun_stuck _ hrun)
  · have hrun := readInSeq_unwritten hf hle ha hnone hbefore
    refine quiet_step_stuck hq hb ?_
    rw [State.selectStep, hp]
    exact (selectDecode_fetch hlt).trans (fetchRun_stuck _ hrun)

end Sys2Proof.Machine
end

section
/-! PROOFS. Which state the instructions leave unchanged (20_memory.md R36, R37, 10_state.md R24). -/

namespace Sys2Proof.Machine

theorem Memory.read_writeSeq_written (m : Memory) {a b : Nat} {vs : List Byte} (hle : a ≤ b)
    (hlt : b < a + vs.length) : ∃ v, read (writeSeq m a vs) b = some v := by
  obtain ⟨i, rfl⟩ := Nat.exists_eq_add_of_le hle
  have hi : i < vs.length := by omega
  exact ⟨vs[i], by rw [read_writeSeq_inside _ _ _ _ hi, List.getElem?_eq_getElem hi]⟩

/-- From `s` to `t`, exactly the `n` elements of `OUT` from `a` on are stored to (R37); what the host
writes, the capacities and the host's list stay (R36). -/
structure StoresOnly (s t : State) (a n : Nat) : Prop where
  inBuf : t.inBuf = s.inBuf
  op : t.op = s.op
  inLen : t.inLen = s.inLen
  cfg : t.cfg = s.cfg
  pending : t.pending = s.pending
  outside : ∀ b, b < a ∨ a + n ≤ b → Memory.read t.outBuf b = Memory.read s.outBuf b
  inside : ∀ b, a ≤ b → b < a + n → ∃ v, Memory.read t.outBuf b = some v

theorem StoresOnly.of_writeSeq {s t : State} {a : Nat} {out : List Byte} (hin : t.inBuf = s.inBuf)
    (hop : t.op = s.op) (hlen : t.inLen = s.inLen) (hcfg : t.cfg = s.cfg) (hpend : t.pending = s.pending)
    (hout : t.outBuf = Memory.writeSeq s.outBuf a out) : StoresOnly s t a out.length where
  inBuf := hin
  op := hop
  inLen := hlen
  cfg := hcfg
  pending := hpend
  outside := fun b hb => by rw [hout, Memory.read_writeSeq_outside _ _ _ _ hb]
  inside := fun b hle hlt => by
    rw [hout]
    exact Memory.read_writeSeq_written _ hle hlt

/-- Nothing is stored where `OUT` stays. -/
theorem StoresOnly.nothing {s t : State} (a : Nat) (hin : t.inBuf = s.inBuf) (hop : t.op = s.op)
    (hlen : t.inLen = s.inLen) (hcfg : t.cfg = s.cfg) (hpend : t.pending = s.pending)
    (hout : t.outBuf = s.outBuf) : StoresOnly s t a 0 :=
  .of_writeSeq (out := []) hin hop hlen hcfg hpend hout

/-! ## The steps -/

/-- Everything a CHKLEN can do (R101). -/
theorem execChkLen_cases {s t : State} (h : execChkLen s = .next t) :
    (s.inLen % 4 ≠ 0 ∧ t = s.raise .invalidLength 0) ∨ (s.inLen % 4 = 0 ∧ t = s.setPhase .pChkPad) := by
  unfold execChkLen at h
  split at h <;> cases h
  · exact .inl ⟨‹_›, rfl⟩
  · exact .inr ⟨not_not.1 ‹_›, rfl⟩

/-- Everything a CHKPAD that answers a next state can do (R102). -/
theorem execChkPad_cases {s t : State} (h : execChkPad s = .next t) :
    ∃ text, s.readText = .ok text ∧
      ((∃ i, firstBadPad text = some i ∧ t = s.raise .invalidPadding i) ∨
        (firstBadPad text = none ∧ t = s.passPads (trailingPads text))) := by
  unfold execChkPad at h
  split at h
  · cases h
  · split at h <;> cases h
    · exact ⟨_, ‹_›, .inl ⟨_, ‹_›, rfl⟩⟩
    · exact ⟨_, ‹_›, .inr ⟨‹_›, rfl⟩⟩

/-- Everything a CHKCHR that answers a next state can do (R103). -/
theorem execChkChr_cases {s t : State} (h : execChkChr s = .next t) :
    ∃ text, s.readText = .ok text ∧
      ((∃ i, firstBadChar s.rev text = some i ∧ t = s.raise .invalidCharacter i) ∨
        (firstBadChar s.rev text = none ∧ t = s.enterGroups)) := by
  unfold execChkChr at h
  split at h
  · cases h
  · split at h <;> cases h
    · exact ⟨_, ‹_›, .inl ⟨_, ‹_›, rfl⟩⟩
    · exact ⟨_, ‹_›, .inr ⟨‹_›, rfl⟩⟩

/-- A group step stores its output from `OPTR` on and leaves `REV` (R81 to R83, R104 to R106). -/
theorem exec_groupStep_frame {i : Instr} {s t : State} (hi : storedCount i ≠ 0)
    (h : exec i s = .next t) : StoresOnly s t s.optr (storedCount i) ∧ t.rev = s.rev := by
  obtain ⟨w, v0, v1, v2, v3, taken, out, hexec, hlen⟩ := exec_eq_groupStep hi s
  obtain ⟨-, rfl⟩ := groupStep_cases (hexec.symm.trans h)
  exact ⟨hlen ▸ .of_writeSeq rfl rfl rfl rfl rfl rfl, rfl⟩

/-- The checks, the final steps and the table operations store nothing, and only BUILD_REV writes `REV`. -/
theorem exec_noOutput_frame {i : Instr} {s t : State} (hi : isStep i = true) (h0 : storedCount i = 0)
    (h : exec i s = .next t) : StoresOnly s t s.optr 0 ∧ (i ≠ .buildRev → t.rev = s.rev) := by
  cases i with
  | start | encode | decode => cases hi
  | enc3 | enc2 | enc1 | dec4 | dec3 | dec2 => cases h0
  | chkLen =>
    rcases execChkLen_cases h with ⟨-, rfl⟩ | ⟨-, rfl⟩ <;>
      exact ⟨.nothing _ rfl rfl rfl rfl rfl rfl, fun _ => rfl⟩
  | chkPad =>
    obtain ⟨text, -, ⟨pos, -, rfl⟩ | ⟨-, rfl⟩⟩ := execChkPad_cases h <;>
      exact ⟨.nothing _ rfl rfl rfl rfl rfl rfl, fun _ => rfl⟩
  | chkChr =>
    obtain ⟨text, -, ⟨pos, -, rfl⟩ | ⟨-, rfl⟩⟩ := execChkChr_cases h <;>
      exact ⟨.nothing _ rfl rfl rfl rfl rfl rfl, fun _ => rfl⟩
  | buildRev =>
    cases h
    exact ⟨.nothing _ rfl rfl rfl rfl rfl rfl, fun hne => absurd rfl hne⟩
  | _ =>
    cases h
    exact ⟨.nothing _ rfl rfl rfl rfl rfl rfl, fun _ => rfl⟩

/-- Settles O26: the group steps store their output, the other steps nothing. -/
theorem stepsChangeOnlyTheStoredElements : Obligations.StepsChangeOnlyTheStoredElements := by
  intro i s t hi h
  have hframe : StoresOnly s t s.optr (storedCount i) ∧ (i ≠ .buildRev → t.rev = s.rev) := by
    by_cases h0 : storedCount i = 0
    · rw [h0]
      exact exec_noOutput_frame hi h0 h
    · exact (exec_groupStep_frame h0 h).imp_right fun hrev _ => hrev
  obtain ⟨hs, hrev⟩ := hframe
  exact ⟨fun a => by rw [hs.inBuf], hs.outside, hs.inside, hs.op, hs.inLen, hs.cfg, hs.pending, hrev⟩

/-! ## The operations -/

/-- A DECODE over a text stores its bytes, or nothing with an error (R113). -/
theorem endDecode_frame (s : State) (text : List Byte) :
    StoresOnly s (s.endDecode text) 0 (s.endDecode text).outLen ∧ (s.endDecode text).rev = s.rev := by
  unfold State.endDecode
  cases decodeText s.rev text with
  | ok bytes => exact ⟨.of_writeSeq rfl rfl rfl rfl rfl rfl, rfl⟩
  | error f => exact ⟨.nothing 0 rfl rfl rfl rfl rfl rfl, rfl⟩

theorem execStart_frame {s t : State} (hb : s.st ≠ .busy) (h : execStart s = .next t) :
    StoresOnly s t 0 t.outLen ∧ t.rev = s.rev := by
  obtain ⟨rfl, -⟩ := execStart_cases hb h
  exact ⟨.nothing 0 rfl rfl rfl rfl rfl rfl, rfl⟩

theorem execEncode_frame {s t : State} (hb : s.st ≠ .busy) (h : execEncode s = .next t) :
    StoresOnly s t 0 t.outLen ∧ t.rev = s.rev := by
  obtain ⟨input, -, -, rfl⟩ := execEncode_cases hb h
  exact ⟨.of_writeSeq rfl rfl rfl rfl rfl rfl, rfl⟩

theorem execDecode_frame {s t : State} (hb : s.st ≠ .busy) (h : execDecode s = .next t) :
    StoresOnly s t 0 t.outLen ∧ t.rev = s.rev := by
  rcases execDecode_cases hb h with ⟨-, rfl⟩ | ⟨text, -, -, rfl⟩
  · exact ⟨.nothing 0 rfl rfl rfl rfl rfl rfl, rfl⟩
  · exact endDecode_frame s text

/-- Settles O27: each of the three by what it can do outside `BUSY`. -/
theorem operationsStoreOnlyTheirOutput : Obligations.OperationsStoreOnlyTheirOutput := by
  intro i s t hi hb h
  have hframe : StoresOnly s t 0 t.outLen ∧ t.rev = s.rev := by
    rcases hi with rfl | rfl | rfl
    · exact execStart_frame hb h
    · exact execEncode_frame hb h
    · exact execDecode_frame hb h
  obtain ⟨hs, hrev⟩ := hframe
  exact ⟨fun a => by rw [hs.inBuf], fun a ha => hs.outside a (.inr (by omega)),
    fun a ha => hs.inside a (Nat.zero_le a) (by omega), hs.op, hs.inLen, hs.cfg, hrev, hs.pending⟩

end Sys2Proof.Machine
end

section
/-! PROOFS. A DECODE whose `IN_LEN` is no multiple of 4: the whole operation, its START, and the run of
START and CHKLEN (20_memory.md R36, 42_decoder.md R101, 60_exceptions.md R146). -/

namespace Sys2Proof.Machine

/-- START of a DECODE that reads no element is accepted whatever `IN` holds. -/
theorem execStart_badLength {s : State} (hb : s.st ≠ .busy) (hc : fits s.cfg.capIn s.inLen = true)
    (hl : s.inLen % 4 ≠ 0) (hop : s.op = 1) : execStart s = .next (s.beginOperation 1) := by
  have hread : s.readsInput s.op = false := by simp [State.readsInput, hop, hl]
  rw [execStart, if_neg hb, acceptInput_unread hread, if_pos hc, hop]

/-- A START at the head of the list is run, the event taken off (R130). -/
theorem step_start {s : State} {rest : List Event} (hp : s.pending = .start :: rest) :
    step s = execStart { s with pending := rest } := by
  have hact : s.activity = .run .hostcmd := by simp [State.activity, hp]
  rw [step, hact, pop_cons hp nofun]
  rfl

/-- A quiet step in `P_CHKLEN` over a bad length ends the operation (R101). -/
theorem step_chkLen_raises {s : State} (hq : s.hostQuiet = true) (hb : s.st = .busy)
    (hp : s.phase = .pChkLen) (hl : s.inLen % 4 ≠ 0) :
    step s = .next (s.pop.raise .invalidLength 0) := by
  rw [quiet_step hq hb, State.selectStep, hp]
  change execChkLen s.pop = _
  rw [execChkLen, pop_inLen, if_pos hl]

/-- Settles O60: none of the three forms comes to a read of `IN`. -/
theorem decodeOfABadLengthReadsNoElement : Obligations.DecodeOfABadLengthReadsNoElement := by
  intro s hb hc hl
  refine ⟨⟨_, execDecode_badLength hb hc hl, rfl, result_failWith .., rfl, rfl⟩, fun hop => ?_,
    fun hop hp => ?_⟩
  · exact execStart_badLength hb hc hl hop
  · have hstart := (step_start hp).trans
      (execStart_badLength (s := { s with pending := [] }) hb hc hl hop)
    have hchk := step_chkLen_raises (s := State.beginOperation { s with pending := [] } 1) rfl rfl rfl hl
    exact ⟨_, runSteps_two hstart hchk, rfl, rfl, rfl, rfl⟩

end Sys2Proof.Machine
end

section
/-! PROOFS. The alphabet table, the character codes, and the two directions of decode and encode
(30_encoding.md R46 to R56). -/

namespace Sys2Proof.Machine

/-! ## The alphabet table -/

theorem fwdAt_eq_symbolClosed : ∀ i : Sextet, fwdAt i = symbolClosed i := by decide

theorem fwdAt_ne_padCode : ∀ i : Sextet, fwdAt i ≠ padCode := by decide

/-- The group steps' read of `REV` is a left inverse of `FWD`. -/
theorem fwdAt_injective : Function.Injective fwdAt :=
  Function.LeftInverse.injective sextetOf_fwdAt

/-- Settles O5: the closed form entry by entry; injective, since `REV` undoes `FWD`. -/
theorem forwardTableIsTheAlphabet : Obligations.ForwardTableIsTheAlphabet :=
  ⟨fwdAt_eq_symbolClosed, fun _ _ => fwdAt_injective.ne, fwdAt_ne_padCode⟩

/-- Settles O7: entry by entry of the built table. -/
theorem reverseTableHasItsClosedForm : Obligations.ReverseTableHasItsClosedForm :=
  fun c => indexOf_of_revAt (revAt_builtRev c)

/-! ## Format SYM -/

theorem rowOfCode_mem {c : Byte} {i : Instr} {rows : List (Byte × Instr)}
    (h : rowOfCode c rows = some i) : (c, i) ∈ rows := by
  induction rows with
  | nil => cases h
  | cons row rows ih =>
    unfold rowOfCode at h
    split at h
    next heq =>
      cases h
      exact heq ▸ List.mem_cons_self
    next => exact List.mem_cons_of_mem _ (ih h)

/-- What the decoder reads as a character code is a row of the table. -/
theorem decodeSym_mem {c : Byte} {i : Instr} (h : decodeSym c = .ok i) : (c, i) ∈ symRows := by
  unfold decodeSym at h
  split at h <;> cases h
  exact rowOfCode_mem ‹_›

/-- A code without a row is rejected as illegal. -/
theorem decodeSym_eq_error {c : Byte} (h : ∀ i, (c, i) ∉ symRows) :
    decodeSym c = .error (.illegalCode c) := by
  unfold decodeSym
  split
  next i hi => exact absurd (rowOfCode_mem hi) (h i)
  next => rfl

/-- `symRows` pairs every row with its own code. -/
theorem encode_of_mem_symRows : ∀ row ∈ symRows, encode row.2 = .sym row.1 ∧ row.2.wf = true := by
  decide

theorem not_illegalCode_of_mem_symRows : ∀ row ∈ symRows, ¬ IllegalCode row.1 := by
  unfold IllegalCode
  decide

theorem encode_of_symbolIndex {i : Instr} {k : Sextet} (h : symbolIndex i = some k) :
    encode i = .sym (fwdAt k) := by
  cases i <;> cases h <;> rfl

theorem decodeSym_of_symbolIndex {i : Instr} {k : Sextet} (h : symbolIndex i = some k) :
    decodeSym (fwdAt k) = .ok i := by
  cases i <;> cases h <;> rfl

theorem exists_symbolIndex_eq (k : Sextet) : ∃ i, symbolIndex i = some k := by
  have hrow : ∀ k : Sextet, ∃ row ∈ symRows, symbolIndex row.2 = some k := by decide
  obtain ⟨row, -, h⟩ := hrow k
  exact ⟨row.2, h⟩

/-- The codes without an index by R53 are the pad and those of R54. -/
theorem indexClosed_eq_none : ∀ c : Byte, indexClosed c = none ↔ c = 0x3D ∨ IllegalCode c := by
  unfold IllegalCode
  decide

theorem fwdAt_of_indexClosed : ∀ c : Byte, ∀ k ∈ indexClosed c, fwdAt k = c := by decide

/-- Settles O4: no row has an illegal code; a code with an index `k` by R53 is `FWD[k]`, the code of the
symbol row of index `k`. -/
theorem characterCodesSymbolPadOrIllegal : Obligations.CharacterCodesSymbolPadOrIllegal := by
  intro c
  refine ⟨fun hc => ?_, fun hc hpad => ?_, fun hpad => ?_⟩
  · exact decodeSym_eq_error fun i hi => not_illegalCode_of_mem_symRows _ hi hc
  · have hsome : indexClosed c ≠ none := by
      rw [Ne, indexClosed_eq_none, not_or]
      exact ⟨hpad, hc⟩
    obtain ⟨k, hk⟩ := Option.ne_none_iff_exists'.1 hsome
    obtain ⟨i, hi⟩ := exists_symbolIndex_eq k
    have hcode : fwdAt k = c := fwdAt_of_indexClosed c k hk
    exact ⟨k, i, hk, hi, hcode ▸ decodeSym_of_symbolIndex hi⟩
  · subst hpad
    rfl

/-! ## Formats G24 and C32 -/

/-- The rows a group of `n` bytes can be (R81, R82, R83). -/
theorem decodeGroup_cases {n : Nat} {w : GroupWord} {i : Instr} (h : decodeGroup n w = .ok i) :
    (∃ b0 b1 b2, n = 3 ∧ w = groupOfBytes b0 b1 b2 ∧ i = .enc3 b0 b1 b2) ∨
    (∃ b0 b1, n = 2 ∧ w = groupOfBytes b0 b1 0 ∧ i = .enc2 b0 b1) ∨
    (∃ b0, n = 1 ∧ w = groupOfBytes b0 0 0 ∧ i = .enc1 b0) := by
  have hw := groupOfBytes_bytes w
  unfold decodeGroup at h
  split at h
  · cases h
    exact .inl ⟨_, _, _, rfl, hw.symm, rfl⟩
  · split at h <;> cases h
    next h2 =>
      rw [h2] at hw
      exact .inr (.inl ⟨_, _, rfl, hw.symm, rfl⟩)
  · split at h <;> cases h
    next h12 =>
      rw [h12.1, h12.2] at hw
      exact .inr (.inr ⟨_, rfl, hw.symm, rfl⟩)
  · cases h

/-- The row the shape of an encoded group selects is well-formed, and its word is the group. -/
theorem encode_decodeChars (w : CharWord) :
    encode (decodeChars w) = .c32 w ∧ (decodeChars w).wf = true := by
  have hw := wordOfChars_chars w
  unfold decodeChars
  split_ifs with h3 h2
  · exact ⟨congrArg Packet.c32 hw, decide_eq_true h3⟩
  · rw [not_not.1 h3] at hw
    exact ⟨congrArg Packet.c32 hw, decide_eq_true h2⟩
  · rw [not_not.1 h3, not_not.1 h2] at hw
    exact ⟨congrArg Packet.c32 hw, rfl⟩

theorem decodeChars_dec4 {c0 c1 c2 c3 : Byte} (h : c3 ≠ padCode) :
    decodeChars (wordOfChars c0 c1 c2 c3) = .dec4 c0 c1 c2 c3 := by
  simp [decodeChars, h]

theorem decodeChars_dec3 {c0 c1 c2 : Byte} (h : c2 ≠ padCode) :
    decodeChars (wordOfChars c0 c1 c2 padCode) = .dec3 c0 c1 c2 := by
  simp [decodeChars, h]

theorem decodeChars_dec2 (c0 c1 : Byte) :
    decodeChars (wordOfChars c0 c1 padCode padCode) = .dec2 c0 c1 := by
  simp [decodeChars]

/-! ## The two directions -/

theorem decode_encode_of_symbolIndex {i : Instr} {k : Sextet} (h : symbolIndex i = some k) :
    decode (encode i) = .ok i := by
  rw [encode_of_symbolIndex h]
  exact decodeSym_of_symbolIndex h

/-- Settles O2: a case for each format; the parts of a word put together are the operands again. -/
theorem decodeOfEncodeIsTheInstruction : Obligations.DecodeOfEncodeIsTheInstruction := by
  intro i hwf
  cases i with
  | start | encode | decode | encFin | chkLen | chkPad | chkChr | decFin | symbolFor | indexFor
  | buildRev | pad => rfl
  | enc3 | enc2 | enc1 => simp [encode, decode, decodeGroup]
  | dec4 c0 c1 c2 c3 => exact congrArg Except.ok (decodeChars_dec4 (of_decide_eq_true hwf))
  | dec3 c0 c1 c2 => exact congrArg Except.ok (decodeChars_dec3 (of_decide_eq_true hwf))
  | dec2 c0 c1 => exact congrArg Except.ok (decodeChars_dec2 c0 c1)
  | _ => exact decode_encode_of_symbolIndex rfl

/-- Settles O1: the thirteen words are closed terms, evaluated. -/
theorem specWordsDecode : Obligations.SpecWordsDecode := by
  unfold Obligations.SpecWordsDecode
  decide

/-- Settles O3: a case for each format; a word is what its parts put together. -/
theorem encodeOfDecodeIsThePacket : Obligations.EncodeOfDecodeIsThePacket := by
  intro p i h
  cases p with
  | hostcmd | reset | index | code =>
    cases h
    exact ⟨rfl, rfl⟩
  | step r => cases r <;> cases h <;> exact ⟨rfl, rfl⟩
  | cmd w =>
    have hcmd : ∀ w : OpCode, encode (if w = 0 then .encode else .decode) = .cmd w ∧
        (if w = 0 then Instr.encode else .decode).wf = true := by decide
    cases h
    exact hcmd w
  | g24 n w =>
    obtain ⟨b0, b1, b2, rfl, rfl, rfl⟩ | ⟨b0, b1, rfl, rfl, rfl⟩ | ⟨b0, rfl, rfl, rfl⟩ :=
      decodeGroup_cases h <;> exact ⟨rfl, rfl⟩
  | c32 w =>
    cases h
    exact encode_decodeChars w
  | sym c => exact encode_of_mem_symRows (c, i) (decodeSym_mem h)

end Sys2Proof.Machine
end

section
/-! PROOFS. A table word put before the machine (30_encoding.md R60, notes/assumptions/17.md): its packet
is the one the next step runs. -/

namespace Sys2Proof.Machine

/-- The bytes a group word stands for make that word again. -/
theorem groupRun_of_decodeGroup {n : Nat} {w : GroupWord} {i : Instr} (h : decodeGroup n w = .ok i) :
    (groupRun n w).length = n ∧ groupOfRun (groupRun n w) = w ∧ 0 < n ∧ n ≤ 3 := by
  obtain ⟨b0, b1, b2, rfl, rfl, -⟩ | ⟨b0, b1, rfl, rfl, -⟩ | ⟨b0, rfl, rfl, -⟩ :=
    decodeGroup_cases h <;> simp [groupRun, groupOfRun]

/-- A last group that was just placed is fetched. -/
theorem fetchRun_placeRun {s : State} (hc : s.cfg.capIn = none) (p : Phase) (run : List Byte)
    (pack : List Byte → Packet) : (s.placeRun p run).fetchRun run.length pack = .run (pack run) := by
  have hfits : fits (s.placeRun p run).cfg.capIn ((s.placeRun p run).iptr + run.length) = true := by
    simp [State.placeRun, hc]
  exact fetchRun_eq pack hfits (Memory.readSeq_writeSeq ..)

theorem activity_placeRun_pEnc {s : State} (hc : s.cfg.capIn = none) {run : List Byte}
    (hpos : 0 < run.length) (hle : run.length ≤ 3) :
    (s.placeRun .pEnc run).activity = .run (.g24 run.length (groupOfRun run)) := by
  have hleft : (s.placeRun .pEnc run).inLen - (s.placeRun .pEnc run).iptr = run.length :=
    Nat.add_sub_cancel_left ..
  calc (s.placeRun .pEnc run).activity = (s.placeRun .pEnc run).selectEncode := rfl
    _ = (s.placeRun .pEnc run).fetchRun run.length fun run => .g24 run.length (groupOfRun run) := by
      rw [selectEncode_fetch (by omega), hleft, Nat.min_eq_right hle]
    _ = _ := fetchRun_placeRun hc ..

theorem activity_placeRun_pDec {s : State} (hc : s.cfg.capIn = none) {run : List Byte}
    (hlen : run.length = 4) : (s.placeRun .pDec run).activity = .run (.c32 (charsOfRun run)) := by
  have hleft : (s.placeRun .pDec run).inLen - (s.placeRun .pDec run).iptr = run.length :=
    Nat.add_sub_cancel_left ..
  calc (s.placeRun .pDec run).activity = (s.placeRun .pDec run).selectDecode := rfl
    _ = (s.placeRun .pDec run).fetchRun run.length fun run => .c32 (charsOfRun run) := by
      rw [selectDecode_fetch (by omega), hlen]
    _ = _ := fetchRun_placeRun hc ..

theorem activity_placeStep (s : State) (r : StepRow) : (s.placeStep r).activity = .run (.step r) := by
  cases r with
  | chkLen | chkPad | chkChr => rfl
  | encFin => simp [State.placeStep, State.activity, State.sequencer, State.selectStep,
      State.selectEncode]
  | decFin => simp [State.placeStep, State.activity, State.sequencer, State.selectStep,
      State.selectDecode]

/-- Every packet that is a row of the table can be put before the machine (R60). -/
theorem activity_withPacket {s : State} {p : Packet} {i : Instr} (hc : s.cfg.capIn = none)
    (h : decode p = .ok i) : (s.withPacket p).activity = .run p := by
  cases p with
  | hostcmd | cmd | reset | index | code | sym => rfl
  | step r => exact activity_placeStep s r
  | g24 n w =>
    obtain ⟨hlen, hword, hpos, hle⟩ := groupRun_of_decodeGroup h
    have hact := activity_placeRun_pEnc hc (run := groupRun n w) (by omega) (by omega)
    rwa [hlen, hword] at hact
  | c32 w =>
    have hact := activity_placeRun_pDec hc (run := charRun w) rfl
    rwa [show charsOfRun (charRun w) = w from wordOfChars_chars w] at hact

/-- Only after BUILD_REV does a step add to `exec` (R171). -/
theorem runPacket_of_decode {p : Packet} {i : Instr} (hp : p ≠ .reset) (h : decode p = .ok i)
    (s : State) : runPacket p s = exec i s := by
  rw [runPacket, h]
  cases p with
  | reset => contradiction
  | hostcmd | cmd | step | g24 | c32 | index | code | sym => rfl

theorem tableByte_ne_reset (c : Byte) : tableByte c ≠ .reset := by
  unfold tableByte
  split
  · nofun
  · split_ifs <;> nofun

/-- Reset has no word in the table (R67, R171). -/
theorem tablePacket_ne_reset {nbits w : Nat} {p : Packet} (h : tablePacket nbits w = some p) :
    p ≠ .reset := by
  unfold tablePacket at h
  split at h
  · cases h
  · split at h <;> cases h
    case h_3 => exact tableByte_ne_reset _
    all_goals nofun

theorem decodeTableWord_eq_some {nbits w : Nat} {i : Instr} (h : decodeTableWord nbits w = some i) :
    ∃ p, tablePacket nbits w = some p ∧ decode p = .ok i := by
  unfold decodeTableWord at h
  split at h
  next p hp =>
    split at h <;> cases h
    exact ⟨p, hp, ‹_›⟩
  next => cases h

/-- Settles O45: the word's packet is what the next step runs, and it is not reset, so the step is
`exec`. -/
theorem givenTableWordIsRunNext : Obligations.GivenTableWordIsRunNext := by
  intro s nbits w i hc h
  obtain ⟨p, hp, hd⟩ := decodeTableWord_eq_some h
  have hword : s.withFetchWord nbits w = s.withPacket p := by rw [State.withFetchWord, hp]
  have hact := activity_withPacket hc hd
  rw [hword]
  refine ⟨p, hact, hd, ?_⟩
  rw [step, hact]
  exact runPacket_of_decode (tablePacket_ne_reset hp) hd _

end Sys2Proof.Machine
end

section
/-! PROOFS. The group word cut into bytes and into sextets (30_encoding.md R47, R48): slices, and the
same by shift and mask. -/

namespace Sys2Proof.Machine

/-! ## Slices by shift and mask -/

/-- A slice of length `len` at `lo`, by a shift and a mask of `len` ones. -/
theorem shiftRight_and_mask {n : Nat} (x : BitVec n) (lo len : Nat) (h : len ≤ n) :
    (x >>> lo) &&& BitVec.ofNat n (2 ^ len - 1) = (x.extractLsb' lo len).setWidth n := by
  have hlen : 2 ^ len ≤ 2 ^ n := Nat.pow_le_pow_right two_pos h
  have hpos : 0 < 2 ^ len := Nat.two_pow_pos len
  have hmask : (2 ^ len - 1) % 2 ^ n = 2 ^ len - 1 := Nat.mod_eq_of_lt (by omega)
  have hslice : x.toNat / 2 ^ lo % 2 ^ len < 2 ^ n := (Nat.mod_lt _ hpos).trans_le hlen
  apply BitVec.eq_of_toNat_eq
  rw [BitVec.toNat_and, BitVec.toNat_ushiftRight, BitVec.toNat_ofNat, hmask,
    Nat.and_two_pow_sub_one_eq_mod, Nat.shiftRight_eq_div_pow, BitVec.toNat_setWidth, toNat_slice,
    Nat.mod_eq_of_lt hslice]

theorem and_mask {n : Nat} (x : BitVec n) (len : Nat) (h : len ≤ n) :
    x &&& BitVec.ofNat n (2 ^ len - 1) = (x.extractLsb' 0 len).setWidth n :=
  shiftRight_and_mask x 0 len h

theorem setWidth_and_mask {n wide : Nat} (x : BitVec n) (len : Nat) (h : len ≤ wide) :
    x.setWidth wide &&& BitVec.ofNat wide (2 ^ len - 1) = (x.extractLsb' 0 len).setWidth wide := by
  rw [and_mask _ len h, BitVec.extractLsb'_setWidth_of_le (by omega)]

/-- The uppermost bits of a widened word need no mask. -/
theorem setWidth_shiftRight {n wide : Nat} (lo len : Nat) (x : BitVec n) (h : n ≤ wide)
    (hn : lo + len = n) : x.setWidth wide >>> lo = (x.extractLsb' lo len).setWidth wide := by
  subst hn
  have hlt : x.toNat / 2 ^ lo < 2 ^ len := Nat.div_lt_of_lt_mul (by rw [← Nat.pow_add]; exact x.isLt)
  have hwide : x.toNat < 2 ^ wide := x.isLt.trans_le (Nat.pow_le_pow_right two_pos h)
  apply BitVec.eq_of_toNat_eq
  rw [BitVec.toNat_ushiftRight, BitVec.toNat_setWidth, BitVec.toNat_setWidth, toNat_slice,
    Nat.mod_eq_of_lt hwide, Nat.mod_eq_of_lt hlt, Nat.shiftRight_eq_div_pow,
    Nat.mod_eq_of_lt ((Nat.div_le_self ..).trans_lt hwide)]

/-- Two slices side by side, by a shift and an or in a wider word. -/
theorem append_eq_setWidth_or {m n : Nat} (wide : Nat) (a : BitVec m) (b : BitVec n)
    (h : m + n ≤ wide) : a ++ b = ((a.setWidth wide <<< n) ||| b.setWidth wide).setWidth (m + n) := by
  rw [← BitVec.setWidth_append_eq_shiftLeft_setWidth_or, BitVec.setWidth_setWidth_of_le _ h,
    BitVec.setWidth_eq]

theorem append_eq_or {m n : Nat} (a : BitVec m) (b : BitVec n) :
    a ++ b = (a.setWidth (m + n) <<< n) ||| b.setWidth (m + n) := by
  rw [append_eq_setWidth_or (m + n) a b le_rfl, BitVec.setWidth_eq]

/-! ## The sextets of three bytes (R47) -/

section
variable (b0 b1 b2 : Byte) (v0 v1 v2 v3 : Sextet)

theorem sextet0_groupOfBytes : sextet0 (groupOfBytes b0 b1 b2) = b0.extractLsb' 2 6 := by
  apply BitVec.eq_of_toNat_eq
  rw [toNat_sextet0, toNat_groupOfBytes, toNat_slice]
  omega

theorem sextet1_groupOfBytes :
    sextet1 (groupOfBytes b0 b1 b2) = b0.extractLsb' 0 2 ++ b1.extractLsb' 4 4 := by
  apply BitVec.eq_of_toNat_eq
  rw [toNat_sextet1, toNat_groupOfBytes, toNat_append_add, toNat_slice, toNat_slice]
  omega

theorem sextet2_groupOfBytes :
    sextet2 (groupOfBytes b0 b1 b2) = b1.extractLsb' 0 4 ++ b2.extractLsb' 6 2 := by
  apply BitVec.eq_of_toNat_eq
  rw [toNat_sextet2, toNat_groupOfBytes, toNat_append_add, toNat_slice, toNat_slice]
  omega

theorem sextet3_groupOfBytes : sextet3 (groupOfBytes b0 b1 b2) = b2.extractLsb' 0 6 := by
  apply BitVec.eq_of_toNat_eq
  rw [toNat_sextet3, toNat_groupOfBytes, toNat_slice]
  omega

theorem slice_eq_shift_mask (b : Byte) (lo : Nat) :
    b.extractLsb' lo 6 = ((b >>> lo) &&& 0x3F).setWidth 6 := by
  rw [show (b >>> lo) &&& 0x3F = _ from shiftRight_and_mask b lo 6 (by decide),
    BitVec.setWidth_setWidth_of_le _ (by decide), BitVec.setWidth_eq]

theorem slices_eq_shift_mask_sextet1 : b0.extractLsb' 0 2 ++ b1.extractLsb' 4 4 =
    (((b0 &&& 0x03) <<< 4) ||| ((b1 >>> 4) &&& 0x0F)).setWidth 6 := by
  rw [append_eq_setWidth_or 8 _ _ (by decide), ← and_mask b0 2 (by decide),
    ← shiftRight_and_mask b1 4 4 (by decide)]
  rfl

theorem slices_eq_shift_mask_sextet2 : b1.extractLsb' 0 4 ++ b2.extractLsb' 6 2 =
    (((b1 &&& 0x0F) <<< 2) ||| ((b2 >>> 6) &&& 0x03)).setWidth 6 := by
  rw [append_eq_setWidth_or 8 _ _ (by decide), ← and_mask b1 4 (by decide),
    ← shiftRight_and_mask b2 6 2 (by decide)]
  rfl

/-! ## The bytes of four sextets (R48) -/

theorem byte0_groupOfSextets : byte0 (groupOfSextets v0 v1 v2 v3) = v0 ++ v1.extractLsb' 4 2 := by
  apply BitVec.eq_of_toNat_eq
  rw [toNat_byte0, toNat_groupOfSextets, toNat_append_add, toNat_slice]
  omega

theorem byte1_groupOfSextets :
    byte1 (groupOfSextets v0 v1 v2 v3) = v1.extractLsb' 0 4 ++ v2.extractLsb' 2 4 := by
  apply BitVec.eq_of_toNat_eq
  rw [toNat_byte1, toNat_groupOfSextets, toNat_append_add, toNat_slice, toNat_slice]
  omega

theorem byte2_groupOfSextets : byte2 (groupOfSextets v0 v1 v2 v3) = v2.extractLsb' 0 2 ++ v3 := by
  apply BitVec.eq_of_toNat_eq
  rw [toNat_byte2, toNat_groupOfSextets, toNat_append_add, toNat_slice]
  omega

end

/-- Settles O13: the word as a number, then each sextet as a slice of the bytes and by shift and mask. -/
theorem sextetsOfThreeBytes : Obligations.SextetsOfThreeBytes := by
  intro b0 b1 b2
  have h0 := sextet0_groupOfBytes b0 b1 b2
  have h1 := sextet1_groupOfBytes b0 b1 b2
  have h2 := sextet2_groupOfBytes b0 b1 b2
  have h3 := sextet3_groupOfBytes b0 b1 b2
  refine ⟨toNat_groupOfBytes .., rfl, rfl, rfl, rfl, h0, h1, h2, h3, ?_, ?_, ?_, ?_⟩
  · exact h0.trans (slice_eq_shift_mask b0 2)
  · exact h1.trans (slices_eq_shift_mask_sextet1 b0 b1)
  · exact h2.trans (slices_eq_shift_mask_sextet2 b1 b2)
  · exact h3.trans (slice_eq_shift_mask b2 0)

/-- Settles O14: the word as a number, each byte as a slice of the sextets and by shift and mask; and a
word is its bytes put together as well as its sextets. -/
theorem bytesOfFourSextetsAndBack : Obligations.BytesOfFourSextetsAndBack := by
  refine ⟨fun v0 v1 v2 v3 => ?_, fun b0 b1 b2 => ?_⟩
  · have h0 := byte0_groupOfSextets v0 v1 v2 v3
    have h1 := byte1_groupOfSextets v0 v1 v2 v3
    have h2 := byte2_groupOfSextets v0 v1 v2 v3
    refine ⟨toNat_groupOfSextets .., rfl, rfl, rfl, h0, h1, h2, ?_, ?_, ?_, ?_⟩
    · rw [h0, append_eq_or, setWidth_shiftRight 4 2 v1 (by decide) rfl]
    · rw [h1, append_eq_or, ← setWidth_and_mask v1 4 (by decide),
        setWidth_shiftRight 2 4 v2 (by decide) rfl]
      rfl
    · rw [h2, append_eq_or, ← setWidth_and_mask v2 2 (by decide)]
      rfl
    · simp [groupOfBytes_bytes]
  · simp [groupOfSextets_sextets]

end Sys2Proof.Machine
end

section
/-! PROOFS. The reverse table that BUILD_REV writes and the two lookups (40_alphabet_table.md R67, R68);
and that nothing but reset and the host's writes changes the tables and the input (R70, 20_memory.md R37,
R41). -/

namespace Sys2Proof.Machine

/-! ## The reverse table -/

theorem indexClosed_symbolClosed : ∀ i : Sextet, indexClosed (symbolClosed i) = some i := by decide

theorem symbolClosed_of_indexClosed {c : Byte} {i : Sextet} (h : indexClosed c = some i) :
    symbolClosed i = c :=
  (fwdAt_eq_symbolClosed i).symm.trans (fwdAt_of_indexClosed c i h)

theorem revAt_builtRev_symbolClosed (i : Sextet) :
    revAt builtRev (symbolClosed i) = { valid := true, idx := i } := by
  rw [revAt_builtRev, indexClosed_symbolClosed]
  rfl

theorem revAt_builtRev_of_not_symbol {c : Byte} (h : ∀ i, symbolClosed i ≠ c) :
    revAt builtRev c = { valid := false, idx := 0 } := by
  have hnone : indexClosed c = none :=
    Option.eq_none_iff_forall_ne_some.2 fun i hi => h i (symbolClosed_of_indexClosed hi)
  rw [revAt_builtRev, hnone]
  rfl

theorem builtRev_valid_count : (builtRev.toList.filter fun e => e.valid).length = 64 := by decide

/-- Settles O6: BUILD_REV writes `builtRev`, whose entries are the closed form's (R53). -/
theorem buildRevWritesTheInverse : Obligations.BuildRevWritesTheInverse := by
  refine ⟨fun s => ⟨builtRev, rfl, revAt_builtRev_symbolClosed, fun c => revAt_builtRev_of_not_symbol,
    builtRev_valid_count⟩, fun p => ⟨decode_eq_buildRev, ?_⟩⟩
  rintro rfl
  rfl

/-- Settles O8: INDEX_FOR is the closed form (R53), which undoes the closed form of `FWD` (R52). -/
theorem lookupsAreInverse : Obligations.LookupsAreInverse := by
  have hindex : ∀ c, indexOf builtRev c = indexClosed c := reverseTableHasItsClosedForm
  have hnone : ∀ c, indexOf builtRev c = none ↔ c = 0x3D ∨ IllegalCode c := fun c => by
    rw [hindex, indexClosed_eq_none]
  refine ⟨fun i => ?_, fun c i h => ?_, (hnone 0x3D).2 (.inl rfl), hnone⟩
  · rw [hindex, symbolOf, fwdAt_eq_symbolClosed, indexClosed_symbolClosed]
  · exact fwdAt_of_indexClosed c i ((hindex c).symm.trans h)

/-! ## What keeps the tables and the input -/

/-- From `s` to `t`, the capacities, `REV` and what the host gives an operation stay (R37, R41, R70). -/
structure KeepsInput (s t : State) : Prop where
  cfg : t.cfg = s.cfg
  rev : t.rev = s.rev
  inBuf : t.inBuf = s.inBuf
  op : t.op = s.op
  inLen : t.inLen = s.inLen

theorem KeepsInput.refl (s : State) : KeepsInput s s := ⟨rfl, rfl, rfl, rfl, rfl⟩

theorem StoresOnly.keepsInput {s t : State} {a n : Nat} (h : StoresOnly s t a n) (hrev : t.rev = s.rev) :
    KeepsInput s t :=
  ⟨h.cfg, hrev, h.inBuf, h.op, h.inLen⟩

/-- START and the whole operations have no effect while `BUSY` (R133). -/
theorem exec_busy {i : Instr} {s : State} (hi : isStep i = false) (hb : s.st = .busy) :
    exec i s = .next s := by
  cases i with
  | start | encode | decode => exact if_pos hb
  | _ => cases hi

/-- Every instruction but BUILD_REV keeps the tables and the input. -/
theorem exec_keepsInput {i : Instr} {s t : State} (hi : i ≠ .buildRev) (h : exec i s = .next t) :
    KeepsInput s t := by
  cases hstep : isStep i with
  | true =>
    by_cases h0 : storedCount i = 0
    · obtain ⟨hstores, hrev⟩ := exec_noOutput_frame hstep h0 h
      exact hstores.keepsInput (hrev hi)
    · obtain ⟨hstores, hrev⟩ := exec_groupStep_frame h0 h
      exact hstores.keepsInput hrev
  | false =>
    by_cases hb : s.st = .busy
    · rw [exec_busy hstep hb] at h
      cases h
      exact .refl s
    cases i with
    | start => exact (execStart_frame hb h).elim StoresOnly.keepsInput
    | encode => exact (execEncode_frame hb h).elim StoresOnly.keepsInput
    | decode => exact (execDecode_frame hb h).elim StoresOnly.keepsInput
    | _ => cases hstep

theorem runPacket_keepsInput {p : Packet} {s t : State} (hp : p ≠ .reset)
    (h : runPacket p s = .next t) : KeepsInput s t := by
  cases hd : decode p with
  | error r =>
    rw [runPacket, hd] at h
    cases h
  | ok i =>
    rw [runPacket_of_decode hp hd] at h
    refine exec_keepsInput ?_ h
    rintro rfl
    exact hp (decode_eq_buildRev hd)

/-- A host access keeps all but the one register or buffer it writes (R26). -/
theorem hostAccess_frame {e : Event} {s t : State} (h : hostAccess e s = .next t) :
    t.cfg = s.cfg ∧ t.rev = s.rev ∧ ((∀ a v, e ≠ .writeIn a v) → t.inBuf = s.inBuf) ∧
      ((∀ v, e ≠ .writeOp v) → t.op = s.op) ∧ ((∀ n, e ≠ .writeInLen n) → t.inLen = s.inLen) := by
  cases e with
  | writeOp v =>
    obtain ⟨-, rfl⟩ := hostWrite_cases h
    exact ⟨rfl, rfl, fun _ => rfl, fun hne => absurd rfl (hne v), fun _ => rfl⟩
  | writeInLen n =>
    obtain ⟨-, rfl⟩ := hostWrite_cases h
    exact ⟨rfl, rfl, fun _ => rfl, fun _ => rfl, fun hne => absurd rfl (hne n)⟩
  | writeIn a v =>
    simp only [hostAccess, hostWriteIn] at h
    split at h
    · obtain ⟨-, rfl⟩ := hostWrite_cases h
      exact ⟨rfl, rfl, fun hne => absurd rfl (hne a v), fun _ => rfl, fun _ => rfl⟩
    · cases h
  | readIn a =>
    simp only [hostAccess, hostReadIn] at h
    split at h <;> cases h
    exact ⟨rfl, rfl, fun _ => rfl, fun _ => rfl, fun _ => rfl⟩
  | readOut a =>
    simp only [hostAccess, hostReadOut] at h
    split at h <;> cases h
    exact ⟨rfl, rfl, fun _ => rfl, fun _ => rfl, fun _ => rfl⟩
  | _ =>
    cases h
    exact ⟨rfl, rfl, fun _ => rfl, fun _ => rfl, fun _ => rfl⟩

/-! ## Which activity writes them -/

/-- What a step can do besides reset and the host's accesses (R27, R132). -/
def Activity.isInternal : Activity → Bool
  | .run .reset | .access _ => false
  | _ => true

theorem perform_keepsInput {a : Activity} {s t : State} (ha : a.isInternal = true)
    (h : perform a s = .next t) : KeepsInput s t := by
  cases a with
  | run p =>
    refine runPacket_keepsInput ?_ h
    rintro rfl
    cases ha
  | access e => cases ha
  | rest =>
    cases h
    exact .refl s
  | stuck f => cases h

theorem fetchRun_isInternal (s : State) (n : Nat) {pack : List Byte → Packet}
    (hpack : ∀ run, (Activity.run (pack run)).isInternal = true) :
    (s.fetchRun n pack).isInternal = true := by
  unfold State.fetchRun
  split
  · exact hpack _
  · rfl

theorem selectEncode_isInternal (s : State) : s.selectEncode.isInternal = true := by
  unfold State.selectEncode
  split_ifs
  · rfl
  · rfl
  · exact fetchRun_isInternal s _ fun _ => rfl

theorem selectDecode_isInternal (s : State) : s.selectDecode.isInternal = true := by
  unfold State.selectDecode
  split_ifs
  · rfl
  · rfl
  · exact fetchRun_isInternal s _ fun _ => rfl

theorem selectStep_isInternal (s : State) : s.selectStep.isInternal = true := by
  unfold State.selectStep
  cases s.phase with
  | pEnc => exact selectEncode_isInternal s
  | pDec => exact selectDecode_isInternal s
  | pChkLen | pChkPad | pChkChr => rfl

/-- The sequencer selects neither reset nor an access of the host (R60, R132). -/
theorem sequencer_isInternal (s : State) : s.sequencer.isInternal = true := by
  unfold State.sequencer
  split
  · exact selectStep_isInternal s
  · rfl

/-- Reset and the host's accesses are run from the head of the list only. -/
theorem activity_cases (s : State) :
    (s.pending.head? = some .reset ∧ s.activity = .run .reset) ∨
    (∃ e, s.pending.head? = some e ∧ s.activity = .access e) ∨ s.activity.isInternal = true := by
  unfold State.activity
  cases hp : s.pending with
  | nil => exact .inr (.inr (sequencer_isInternal s))
  | cons e rest =>
    cases e with
    | reset => exact .inl ⟨rfl, rfl⟩
    | waitDone | silent => exact .inr (.inr (sequencer_isInternal s))
    | start | call | symbolFor | indexFor | character => exact .inr (.inr rfl)
    | _ => exact .inr (.inl ⟨_, rfl, rfl⟩)

/-- Settles O47: reset, a host access at the head of the list, or an activity that keeps them all. -/
theorem tablesAndInputAreReadOnly : Obligations.TablesAndInputAreReadOnly := by
  intro s t h
  rw [step, pop_eq] at h
  rcases activity_cases s with ⟨hhead, hact⟩ | ⟨e, hhead, hact⟩ | hact
  · rw [hact] at h
    cases h
    simp [hhead]
  · rw [hact] at h
    obtain ⟨hcfg, hrev, hin, hop, hlen⟩ := hostAccess_frame h
    simp only [hhead, ne_eq, Option.some.injEq]
    exact ⟨hcfg, fun _ => hrev, fun _ => hin, fun _ => hop, fun _ => hlen⟩
  · obtain ⟨hcfg, hrev, hin, hop, hlen⟩ := perform_keepsInput hact h
    exact ⟨hcfg, fun _ => hrev, fun _ _ => hin, fun _ _ => hop, fun _ _ => hlen⟩

end Sys2Proof.Machine
end

section
/-! PROOFS. The laws of `encode` (41_encoder.md R86 to R88, R91): an encoded text is symbols, then its
pads. -/

namespace Sys2Proof.Machine

/-- How many pads the text of `n` bytes ends in (R87). -/
def padCount (n : Nat) : Nat := if n % 3 = 1 then 2 else if n % 3 = 2 then 1 else 0

theorem padCount_le_two (n : Nat) : padCount n ≤ 2 := by
  unfold padCount
  split_ifs <;> decide

theorem padCount_pos {n : Nat} (h : n % 3 ≠ 0) : 0 < padCount n := by
  unfold padCount
  split_ifs <;> omega

@[simp] theorem padCount_add_three (n : Nat) : padCount (n + 3) = padCount n := by
  simp [padCount]

/-- Every text of ENCODE is a run of symbols and then its pads: the shape of the last group (R80). -/
theorem encodeBytes_eq_symbols_pads (input : List Byte) : ∃ indices : List Sextet,
    encodeBytes input = indices.map fwdAt ++ List.replicate (padCount input.length) padCode := by
  induction input using encodeBytes.induct with
  | case1 b0 b1 b2 rest ih =>
    obtain ⟨indices, ih⟩ := ih
    refine ⟨sextet0 (groupOfBytes b0 b1 b2) :: sextet1 (groupOfBytes b0 b1 b2) ::
      sextet2 (groupOfBytes b0 b1 b2) :: sextet3 (groupOfBytes b0 b1 b2) :: indices, ?_⟩
    simp [encodeBytes, enc3Chars, ih]
  | case2 b0 b1 => exact ⟨[_, _, _], rfl⟩
  | case3 b0 => exact ⟨[_, _], rfl⟩
  | case4 => exact ⟨[], rfl⟩

/-- Pads put behind a text without pads are the pads of the whole. -/
theorem padsAre_append_replicate {front : List Byte} (h : padCode ∉ front) {n : Nat} (hn : n ≤ 2) :
    PadsAre (front ++ List.replicate n padCode) n := by
  refine ⟨hn, fun i hi => ?_⟩
  rw [List.length_append, List.length_replicate] at hi ⊢
  by_cases hfront : i < front.length
  · rw [List.getElem?_append_left hfront]
    refine ⟨fun hpad => absurd (List.mem_of_getElem? hpad) h, fun hle => by omega⟩
  · rw [List.getElem?_append_right (by omega), List.getElem?_replicate_of_lt (by omega)]
    exact ⟨fun _ => by omega, fun _ => rfl⟩

theorem padCode_notMem_map_fwdAt (indices : List Sextet) : padCode ∉ indices.map fwdAt := by
  rw [List.mem_map]
  rintro ⟨i, -, hi⟩
  exact fwdAt_ne_padCode i hi

theorem padsAre_encodeBytes (input : List Byte) :
    PadsAre (encodeBytes input) (padCount input.length) := by
  obtain ⟨indices, h⟩ := encodeBytes_eq_symbols_pads input
  rw [h]
  exact padsAre_append_replicate (padCode_notMem_map_fwdAt indices) (padCount_le_two _)

theorem encodeBytes_eq_nil {input : List Byte} : encodeBytes input = [] ↔ input = [] := by
  rw [← List.length_eq_zero_iff, ← List.length_eq_zero_iff, encodeBytes_length]
  omega

/-- Settles O28: four characters for each group (R86). -/
theorem encodedLengthIsFourPerGroup : Obligations.EncodedLengthIsFourPerGroup := by
  intro input
  have hlen := encodeBytes_length input
  exact ⟨hlen, by omega, encodeBytes_eq_nil⟩

/-- Settles O29: the pads follow the last symbol. -/
theorem encodedPadsStandAtTheEnd : Obligations.EncodedPadsStandAtTheEnd :=
  fun input => ⟨padCount input.length, rfl, (padsAre_encodeBytes input).2⟩

theorem not_illegalCode_padCode : ¬ IllegalCode padCode := by
  unfold IllegalCode
  decide

/-- A symbol has an index, and an illegal code has none (R53, R54). -/
theorem not_illegalCode_symbolClosed (i : Sextet) : ¬ IllegalCode (symbolClosed i) := fun h => by
  have hnone := (indexClosed_eq_none _).2 (.inr h)
  rw [indexClosed_symbolClosed] at hnone
  cases hnone

/-- Settles O30: a character of an encoded text is one of its symbols or one of its pads. -/
theorem encodedTextStaysInTheAlphabet : Obligations.EncodedTextStaysInTheAlphabet := by
  intro input c hc
  obtain ⟨indices, h⟩ := encodeBytes_eq_symbols_pads input
  rw [h, List.mem_append] at hc
  rcases hc with hsymbol | hpad
  · obtain ⟨i, -, rfl⟩ := List.mem_map.1 hsymbol
    rw [fwdAt_eq_symbolClosed]
    exact ⟨.inr ⟨i, rfl⟩, not_illegalCode_symbolClosed i⟩
  · obtain rfl := List.eq_of_mem_replicate hpad
    exact ⟨.inl rfl, not_illegalCode_padCode⟩

/-- The pad that ends `encode(B1)` would have four or more characters behind it, against R87. -/
theorem encodeBytes_append_ne {first second : List Byte} (h : first.length % 3 ≠ 0)
    (hne : second ≠ []) :
    encodeBytes (first ++ second) ≠ encodeBytes first ++ encodeBytes second := by
  intro heq
  have hpads := padCount_pos h
  have hfirst := encodeBytes_length first
  have hsecond : 0 < second.length := List.length_pos_iff.2 hne
  have hlast : (encodeBytes first)[(encodeBytes first).length - 1]? = some 0x3D :=
    ((padsAre_encodeBytes first).2 _ (by omega)).2 (by omega)
  obtain ⟨htwo, hwhole⟩ := heq ▸ padsAre_encodeBytes (first ++ second)
  have hend := hwhole ((encodeBytes first).length - 1) (by rw [List.length_append]; omega)
  rw [List.getElem?_append_left (by omega), List.length_append, encodeBytes_length second] at hend
  have := hend.1 hlast
  omega

/-- Settles O31: whole groups are encoded by themselves, and a pad inside the text is against R87. -/
theorem encodeOfAConcatenation : Obligations.EncodeOfAConcatenation :=
  fun _ second => ⟨fun h => encodeBytes_append h second, encodeBytes_append_ne⟩

end Sys2Proof.Machine
end

section
/-! PROOFS. The steps of the encoder (41_encoder.md R81 to R84): what each leaves, and when the sequencer
runs it. -/

namespace Sys2Proof.Machine

/-! ## The group steps -/

/-- A quiet step in `P_ENC` runs the row whose word the bytes left at `IPTR`, at most three, make
(R60). -/
theorem step_encode_row {s : State} {i : Instr} {run : List Byte} (hq : s.hostQuiet = true)
    (hb : s.st = .busy) (hp : s.phase = .pEnc) (hf : fits s.cfg.capIn s.inLen = true)
    (hlt : s.iptr < s.inLen) (hlen : run.length = min 3 (s.inLen - s.iptr))
    (hr : Memory.readSeq s.inBuf s.iptr run.length = some run) (hwf : i.wf = true)
    (hword : encode i = .g24 run.length (groupOfRun run)) : step s = exec i s.pop := by
  have hfetch := fetchRun_eq (fun run => .g24 run.length (groupOfRun run))
    (fits_mono hf (by omega : s.iptr + run.length ≤ s.inLen)) hr
  have hselect : s.selectStep = .run (encode i) := by
    rw [State.selectStep, hp, hword, ← hfetch, hlen]
    exact selectEncode_fetch hlt
  rw [quiet_step hq hb, hselect]
  exact runPacket_of_decode (by rw [hword]; nofun) (decodeOfEncodeIsTheInstruction i hwf) _

/-- ENC3 with its symbols in closed form (R52, R81). -/
theorem exec_enc3 (b0 b1 b2 : Byte) {s : State} (h : fits s.cfg.capOut (s.optr + 4) = true) :
    let w := groupOfBytes b0 b1 b2
    exec (.enc3 b0 b1 b2) s =
      .next ((s.loadGroup w (sextet0 w) (sextet1 w) (sextet2 w) (sextet3 w)).emit 3
        [symbolClosed (sextet0 w), symbolClosed (sextet1 w), symbolClosed (sextet2 w),
          symbolClosed (sextet3 w)]) := by
  simp only [← fwdAt_eq_symbolClosed]
  exact groupStep_next h

/-- ENC2: the low bits of `V2` come from the missing byte, and `V3` is 0 (R82). -/
theorem exec_enc2 (b0 b1 : Byte) {s : State} (h : fits s.cfg.capOut (s.optr + 4) = true) :
    let w := groupOfBytes b0 b1 0
    exec (.enc2 b0 b1) s =
      .next ((s.loadGroup w (sextet0 w) (sextet1 w) (sextet2 w) 0).emit 2
        [symbolClosed (sextet0 w), symbolClosed (sextet1 w), symbolClosed (sextet2 w), padCode]) := by
  simp only [← fwdAt_eq_symbolClosed]
  rw [exec, execEnc2, State.encodeGroup, groupStep_next (out := enc2Chars b0 b1) h, sextet3_two]
  rfl

/-- ENC1: `V2` and `V3` are 0 (R83). -/
theorem exec_enc1 (b0 : Byte) {s : State} (h : fits s.cfg.capOut (s.optr + 4) = true) :
    let w := groupOfBytes b0 0 0
    exec (.enc1 b0) s =
      .next ((s.loadGroup w (sextet0 w) (sextet1 w) 0 0).emit 1
        [symbolClosed (sextet0 w), symbolClosed (sextet1 w), padCode, padCode]) := by
  simp only [← fwdAt_eq_symbolClosed]
  rw [exec, execEnc1, State.encodeGroup, groupStep_next (out := enc1Chars b0) h, sextet2_one,
    sextet3_one]
  rfl

/-- Settles O15: the step is ENC3 of the three bytes at `IPTR`. -/
theorem enc3EncodesThreeBytes : Obligations.Enc3EncodesThreeBytes := by
  intro b0 b1 b2 s hout
  refine ⟨exec_enc3 b0 b1 b2 hout, fun hq hb hp hle hf hr => ?_⟩
  rw [step_encode_row (i := .enc3 b0 b1 b2) (run := [b0, b1, b2]) hq hb hp hf (by omega)
    (by simp; omega) hr rfl rfl]
  exact exec_enc3 b0 b1 b2 (by simpa using hout)

/-- Settles O16: the step is ENC2 of the two bytes left. -/
theorem enc2EncodesTwoBytes : Obligations.Enc2EncodesTwoBytes := by
  intro b0 b1 s hout
  refine ⟨exec_enc2 b0 b1 hout, fun hq hb hp heq hf hr => ?_⟩
  rw [step_encode_row (i := .enc2 b0 b1) (run := [b0, b1]) hq hb hp hf (by omega)
    (by simp; omega) hr rfl rfl]
  exact exec_enc2 b0 b1 (by simpa using hout)

/-- Settles O17: the step is ENC1 of the byte left. -/
theorem enc1EncodesOneByte : Obligations.Enc1EncodesOneByte := by
  intro b0 s hout
  refine ⟨exec_enc1 b0 hout, fun hq hb hp heq hf hr => ?_⟩
  have hseq : Memory.readSeq s.inBuf s.iptr 1 = some [b0] := by simp [Memory.readSeq, hr]
  rw [step_encode_row (i := .enc1 b0) (run := [b0]) hq hb hp hf (by omega) (by simp; omega) hseq
    rfl rfl]
  exact exec_enc1 b0 (by simpa using hout)

/-! ## The last step -/

theorem selectEncode_end {s : State} (h : s.iptr = s.inLen) : s.selectEncode = .run (.step .encFin) := by
  simp [State.selectEncode, h]

theorem selectDecode_end {s : State} (h : s.iptr = s.inLen) : s.selectDecode = .run (.step .decFin) := by
  simp [State.selectDecode, h]

/-- Behind the last group the sequencer runs the final step of its phase (R84, R107). -/
theorem step_finish {s : State} (hq : s.hostQuiet = true) (hb : s.st = .busy)
    (hp : s.phase = .pEnc ∨ s.phase = .pDec) (hend : s.iptr = s.inLen) :
    step s = .next s.pop.finish := by
  rw [quiet_step hq hb, State.selectStep]
  rcases hp with hp | hp
  · simp only [hp, selectEncode_end hend]
    rfl
  · simp only [hp, selectDecode_end hend]
    rfl

/-- Settles O24: both steps are `finish`, which the sequencer takes when `IPTR = IN_LEN`. -/
theorem finalStepsEndTheOperation : Obligations.FinalStepsEndTheOperation := by
  refine fun s => ⟨rfl, rfl, fun hq hb hp hend => ?_⟩
  rw [← pop_optr s]
  exact step_finish hq hb hp hend

end Sys2Proof.Machine
end

section
/-! PROOFS. ENCODE as a whole and as a run of its steps (41_encoder.md R80, R85, R90,
70_reset_and_hazards.md R179): both leave the same block but for the group's registers. -/

namespace Sys2Proof.Machine

/-! ## The whole operation -/

/-- An ENCODE over a written input within the capacities. -/
theorem execEncode_eq {s : State} {input : List Byte} (hb : s.st ≠ .busy) (hi : s.HasInput input)
    (hf : fits s.cfg.capOut (encodeBytes input).length = true) :
    execEncode s = .next ((s.beginOperation 0).succeedWith (encodeBytes input) .pEnc 0) := by
  have haccept : s.acceptInput 0 = .ok input :=
    (acceptInput_eq_ok (readsInput_iff.2 (.inl rfl))).2 ⟨hi, hf⟩
  rw [execEncode, if_neg hb, haccept]

/-- Settles O39: ENCODE leaves `encode` of its input, whose length is R86's. -/
theorem encodeCompletesOnEveryInput : Obligations.EncodeCompletesOnEveryInput := by
  refine ⟨fun input s hb hi hf => ?_, fun s hb => exec_busy rfl hb⟩
  rw [← encodeBytes_length] at hf ⊢
  exact ⟨_, execEncode_eq hb hi hf, rfl, result_succeedWith ..⟩

/-! ## Runs of steps -/

theorem runSteps_succ {s t : State} (h : step s = .next t) (k : Nat) :
    runSteps (k + 1) s = runSteps k t := by
  simp [runSteps, h]

/-- One more step at the end of a run. -/
theorem runSteps_then_step {k : Nat} {s t : State} (h : runSteps k s = .next t) :
    runSteps (k + 1) s = step t := by
  induction k generalizing s with
  | zero =>
    cases h
    cases hs : step t <;> simp [runSteps, hs]
  | succ k ih =>
    cases hs : step s with
    | next u =>
      rw [runSteps_succ hs] at h ⊢
      exact ih h
    | fault f => simp [runSteps, hs] at h
    | refused r => simp [runSteps, hs] at h

/-! ## The run of an ENCODE -/

/-- The outputs of two groups are put out like one output, and the second leaves its own registers. -/
theorem emit_loadGroup_emit (s : State) (w w' : GroupWord) (v0 v1 v2 v3 u0 u1 u2 u3 : Sextet)
    (m n : Nat) (xs ys : List Byte) :
    (((s.loadGroup w v0 v1 v2 v3).emit m xs).loadGroup w' u0 u1 u2 u3).emit n ys =
      (s.loadGroup w' u0 u1 u2 u3).emit (m + n) (xs ++ ys) := by
  simp [State.emit, State.loadGroup, Memory.writeSeq_append, Nat.add_assoc]

/-- The output up to the end of the run at `i`, as the output before it and its own (R85). -/
theorem encodeBytes_take_add {input : List Byte} {i : Nat} (h3 : i % 3 = 0) (hi : i ≤ input.length) :
    encodeBytes (input.take (i + 3)) =
      encodeBytes (input.take i) ++ encodeBytes ((input.drop i).take 3) := by
  rw [List.take_add, encodeBytes_append (by rw [List.length_take_of_le hi, h3])]

/-- The block after START and the groups of the bytes `taken`, the last of them in the group's
registers. -/
def State.encodeRun (s : State) (taken : List Byte) (w : GroupWord) (v0 v1 v2 v3 : Sextet) : State :=
  ((s.beginOperation 0).loadGroup w v0 v1 v2 v3).emit taken.length (encodeBytes taken)

@[simp] theorem encodeRun_iptr (s : State) (taken : List Byte) (w : GroupWord) (v0 v1 v2 v3 : Sextet) :
    (s.encodeRun taken w v0 v1 v2 v3).iptr = taken.length := Nat.zero_add _

@[simp] theorem encodeRun_optr (s : State) (taken : List Byte) (w : GroupWord) (v0 v1 v2 v3 : Sextet) :
    (s.encodeRun taken w v0 v1 v2 v3).optr = (encodeBytes taken).length := Nat.zero_add _

/-- The next group of a run of ENCODE (R85). -/
theorem step_encodeRun {s : State} {input : List Byte} (hpend : s.pending = []) (hi : s.HasInput input)
    (hf : fits s.cfg.capOut (encodeBytes input).length = true) {i : Nat} (h3 : i % 3 = 0)
    (hlt : i < input.length) (w : GroupWord) (v0 v1 v2 v3 : Sextet) :
    ∃ w' u0 u1 u2 u3, step (s.encodeRun (input.take i) w v0 v1 v2 v3) =
      .next (s.encodeRun (input.take (i + 3)) w' u0 u1 u2 u3) := by
  have hpend' : (s.encodeRun (input.take i) w v0 v1 v2 v3).pending = [] := hpend
  have hiptr : (s.encodeRun (input.take i) w v0 v1 v2 v3).iptr = i := by simp [hlt.le]
  have hroom : fits s.cfg.capOut ((s.encodeRun (input.take i) w v0 v1 v2 v3).optr + 4) = true := by
    rw [encodeRun_optr]
    exact fits_mono hf (encodeBytes_take_room h3 hlt)
  obtain ⟨w', u0, u1, u2, u3, hstep⟩ :=
    encode_group_step (hostQuiet_of_pending_nil hpend') rfl rfl (hi.congr rfl rfl rfl) (by omega) hroom
  refine ⟨w', u0, u1, u2, u3, ?_⟩
  rw [hstep, hiptr, pop_of_pending_nil hpend', State.encodeRun, emit_loadGroup_emit,
    ← List.length_append, ← List.take_add, ← encodeBytes_take_add h3 hlt.le]
  rfl

theorem runSteps_encodeRun {s : State} {input : List Byte} (hpend : s.pending = [])
    (hi : s.HasInput input) (hf : fits s.cfg.capOut (encodeBytes input).length = true) {k : Nat}
    (hk : k ≤ (input.length + 2) / 3) :
    ∃ w v0 v1 v2 v3, runSteps k (s.beginOperation 0) =
      .next (s.encodeRun (input.take (3 * k)) w v0 v1 v2 v3) := by
  induction k with
  | zero => exact ⟨s.acc, s.v0, s.v1, s.v2, s.v3, rfl⟩
  | succ k ih =>
    obtain ⟨w, v0, v1, v2, v3, hrun⟩ := ih (by omega)
    rw [runSteps_then_step hrun]
    exact step_encodeRun hpend hi hf (by omega) (by omega) w v0 v1 v2 v3

/-- ENC_FIN behind the last group leaves what the whole operation leaves, but for the group's
registers. -/
theorem finish_encodeRun_withoutGroup {s : State} {input : List Byte} (hl : s.inLen = input.length)
    (w : GroupWord) (v0 v1 v2 v3 : Sextet) :
    (s.encodeRun input w v0 v1 v2 v3).finish.withoutGroup =
      ((s.beginOperation 0).succeedWith (encodeBytes input) .pEnc 0).withoutGroup := by
  simp [State.finish, State.encodeRun, State.emit, State.loadGroup, State.withoutGroup,
    State.succeedWith, State.beginOperation, hl]

/-- A run of the sequencer from START on: the groups, then ENC_FIN (R90). -/
theorem runSteps_encode {s : State} {input : List Byte} (hpend : s.pending = []) (hi : s.HasInput input)
    (hf : fits s.cfg.capOut (encodeBytes input).length = true) :
    ∃ t, runSteps ((input.length + 2) / 3 + 1) (s.beginOperation 0) = .next t ∧ t.st = .done ∧
      t.withoutGroup =
        ((s.beginOperation 0).succeedWith (encodeBytes input) .pEnc 0).withoutGroup := by
  obtain ⟨w, v0, v1, v2, v3, hrun⟩ := runSteps_encodeRun hpend hi hf le_rfl
  rw [List.take_of_length_le (by omega)] at hrun
  have hend : (s.encodeRun input w v0 v1 v2 v3).iptr = s.inLen := by rw [encodeRun_iptr, hi.1]
  have hpend' : (s.encodeRun input w v0 v1 v2 v3).pending = [] := hpend
  have hfinish := step_finish (hostQuiet_of_pending_nil hpend') rfl (.inl rfl) hend
  rw [pop_of_pending_nil hpend'] at hfinish
  exact ⟨_, (runSteps_then_step hrun).trans hfinish, rfl, finish_encodeRun_withoutGroup hi.1 ..⟩

/-- START over a written input within the capacities (R130). -/
theorem execStart_eq {s : State} {input : List Byte} (hb : s.st ≠ .busy) (hi : s.HasInput input)
    (hf : fits s.cfg.capOut (resultLength s.rev s.op input) = true) :
    execStart s = .next (s.beginOperation s.op) := by
  rw [execStart, if_neg hb, hi.accept hf]

/-- What the host sees at `DONE` does not depend on the group's registers (R24). -/
theorem result_congr {s t : State} (h : s.withoutGroup = t.withoutGroup) : s.result = t.result := by
  change s.withoutGroup.result = t.withoutGroup.result
  rw [h]

/-- START of an ENCODE by the host, who then is silent (R130). -/
theorem step_start_encode {s : State} {input : List Byte} (hp : s.pending = [.start])
    (hb : s.st ≠ .busy) (hop : s.op = 0) (hi : s.HasInput input)
    (hf : fits s.cfg.capOut (encodeBytes input).length = true) :
    step s = .next (State.beginOperation { s with pending := [] } 0) := by
  rw [step_start hp, execStart_eq (s := { s with pending := [] }) hb hi, hop]
  rwa [hop, resultLength_encode]

/-- Settles O48: START, then the groups and ENC_FIN, against the whole operation. -/
theorem encodeRunAgreesWithTheFunction : Obligations.EncodeRunAgreesWithTheFunction := by
  intro input s hp hb hop hi hf
  rw [← encodeBytes_length] at hf
  have hstart := step_start_encode hp hb hop hi hf
  rw [pop_cons hp nofun]
  refine ⟨fun k hk => ?_, ?_⟩
  · obtain ⟨w, v0, v1, v2, v3, hrun⟩ :=
      runSteps_encodeRun (s := { s with pending := [] }) rfl hi hf hk
    exact ⟨_, (runSteps_succ hstart k).trans hrun, rfl⟩
  · obtain ⟨t, hrun, hdone, hsame⟩ := runSteps_encode (s := { s with pending := [] }) rfl hi hf
    exact ⟨t, _, (runSteps_succ hstart _).trans hrun, hdone,
      (result_congr hsame).trans (result_succeedWith ..),
      execEncode_eq (s := { s with pending := [] }) hb hi hf, hsame⟩

end Sys2Proof.Machine
end

section
/-! PROOFS. The laws of `decode` against `encode` (42_decoder.md R111, R92): an encoded text passes the
three checks, and group by group its translation is the input. -/

namespace Sys2Proof.Machine

/-- The converse of `padsAre_trailingPads`: no pad is misplaced where the pads are the last one or two
characters (R102). -/
theorem PadsAre.firstBadPad {text : List Byte} {n : Nat} (h : PadsAre text n) :
    firstBadPad text = none := by
  obtain ⟨htwo, hpads⟩ := h
  refine firstBadPad_none.2 fun i ⟨hpad, hplace⟩ => hplace ?_
  have hi : i < text.length := (List.getElem?_eq_some_iff.1 hpad).1
  have hend := (hpads i hi).1 hpad
  by_cases hlast : i + 1 = text.length
  · exact .inl hlast
  · exact .inr ⟨by omega, (hpads (i + 1) (by omega)).2 (by omega)⟩

/-- CHKCHR passes over the built table exactly when every character is the pad or in `FWD` (R103). -/
theorem firstBadChar_builtRev {text : List Byte} :
    firstBadChar builtRev text = none ↔ ∀ c ∈ text, c = 0x3D ∨ ∃ i : Sextet, c = symbolClosed i := by
  obtain ⟨hsymbol, hcode, -, -⟩ := lookupsAreInverse
  rw [firstBadChar_none]
  constructor
  · intro h c hc
    obtain ⟨j, hj⟩ := List.mem_iff_getElem?.1 hc
    by_cases hpad : c = 0x3D
    · exact .inl hpad
    obtain ⟨i, hi⟩ := Option.ne_none_iff_exists'.1 fun hnone => h j ⟨c, hj, hpad, hnone⟩
    exact .inr ⟨i, by rw [← fwdAt_eq_symbolClosed]; exact (hcode c i hi).symm⟩
  · rintro h j ⟨c, hj, hpad, hnone⟩
    obtain ⟨i, rfl⟩ := (h c (List.mem_of_getElem? hj)).resolve_left hpad
    rw [← fwdAt_eq_symbolClosed] at hnone
    have hsome : indexOf builtRev (fwdAt i) = some i := hsymbol i
    rw [hsome] at hnone
    cases hnone

/-! ## The group words of the symbols of a word (R47, R48) -/

section
variable {w : GroupWord}

theorem dec4Word_fwdAt : dec4Word builtRev (fwdAt (sextet0 w)) (fwdAt (sextet1 w)) (fwdAt (sextet2 w))
    (fwdAt (sextet3 w)) = w := by
  simp only [dec4Word, sextetOf_fwdAt, groupOfSextets_sextets]

theorem dec3Word_fwdAt (h3 : sextet3 w = 0) :
    dec3Word builtRev (fwdAt (sextet0 w)) (fwdAt (sextet1 w)) (fwdAt (sextet2 w)) = w := by
  have hw := groupOfSextets_sextets w
  rw [h3] at hw
  simp only [dec3Word, sextetOf_fwdAt, hw]

theorem dec2Word_fwdAt (h2 : sextet2 w = 0) (h3 : sextet3 w = 0) :
    dec2Word builtRev (fwdAt (sextet0 w)) (fwdAt (sextet1 w)) = w := by
  have hw := groupOfSextets_sextets w
  rw [h2, h3] at hw
  simp only [dec2Word, sextetOf_fwdAt, hw]

end

/-- DEC4, DEC3 and DEC2 undo ENC3, ENC2 and ENC1 (R111). -/
theorem decodeGroups_encodeBytes (input : List Byte) :
    decodeGroups builtRev (encodeBytes input) = input := by
  induction input using encodeBytes.induct with
  | case1 b0 b1 b2 rest ih =>
    simp [encodeBytes, enc3Chars, decodeGroups, decodeGroupBytes, fwdAt_ne_padCode, dec4Bytes,
      dec4Word_fwdAt, ih]
  | case2 b0 b1 =>
    simp only [encodeBytes, enc2Chars, decodeGroups, decodeGroupBytes, dec3Bytes,
      dec3Word_fwdAt (sextet3_two b0 b1), fwdAt_ne_padCode, ne_eq, not_true_eq_false, not_false_eq_true,
      if_true, if_false, byte0_groupOfBytes, byte1_groupOfBytes, List.append_nil]
  | case3 b0 =>
    simp only [encodeBytes, enc1Chars, decodeGroups, decodeGroupBytes, dec2Bytes,
      dec2Word_fwdAt (sextet2_one b0) (sextet3_one b0), ne_eq, not_true_eq_false, if_false,
      byte0_groupOfBytes, List.append_nil]
  | case4 => rfl

theorem decodeText_encodeBytes (input : List Byte) :
    decodeText builtRev (encodeBytes input) = .ok input := by
  obtain ⟨-, hfour, -⟩ := encodedLengthIsFourPerGroup input
  exact decodeText_eq_ok.2 ⟨hfour, (padsAre_encodeBytes input).firstBadPad,
    firstBadChar_builtRev.2 fun c hc => (encodedTextStaysInTheAlphabet input c hc).1,
    (decodeGroups_encodeBytes input).symm⟩

/-- Settles O32: the three checks pass by R86, R87 and R88, and the translation is group by group; so
`decode` is a left inverse of `encode`. -/
theorem decodeOfEncodeIsTheInput : Obligations.DecodeOfEncodeIsTheInput :=
  ⟨decodeText_encodeBytes, fun first second h => Except.ok.inj <| by
    rw [← decodeText_encodeBytes first, h, decodeText_encodeBytes second]⟩

end Sys2Proof.Machine
end

section
/-! PROOFS. The laws of a text that decodes: the bits a padded group discards, the length of the output
and the alphabet (42_decoder.md R109, R110, R116). -/

namespace Sys2Proof.Machine

/-! ## The output length and the alphabet -/

/-- Each group gives three bytes, but the last as many fewer as it has pads (R110). -/
theorem decodeGroups_length (rev : Rev) {text : List Byte} {n : Nat} (h : PadsAre text n)
    (h4 : text.length % 4 = 0) :
    (decodeGroups rev text).length = 3 * (text.length / 4) - n := by
  induction text using decodeGroups.induct with
  | case1 c0 c1 c2 c3 rest ih =>
    have h4' : rest.length % 4 = 0 := by
      simp only [List.length_cons] at h4
      omega
    rw [decodeGroups, List.length_append]
    by_cases hr : rest = []
    · subst hr
      obtain ⟨-, -, h2, h3⟩ := padsAre_one h
      rw [decodeGroupBytes_length rev h2 h3 h.1]
      simp [decodeGroups]
    · obtain ⟨-, -, h2, h3, htail⟩ := padsAre_tail h hr h4'
      have hpos : 0 < rest.length := List.length_pos_iff.2 hr
      have htwo := h.1
      have hthree := decodeGroupBytes_length rev (c0 := c0) (c1 := c1) (n := 0)
        (iff_of_false h2 (by decide)) (iff_of_false h3 (by decide)) (by decide)
      rw [hthree, ih htail h4', List.length_cons, List.length_cons, List.length_cons, List.length_cons]
      omega
  | case2 text hshort =>
    rcases wholeGroups h4 with rfl | ⟨c0, c1, c2, c3, rest, rfl, -⟩
    · simp [decodeGroups]
    · exact absurd rfl (hshort c0 c1 c2 c3 rest)

/-- Settles O34: the length group by group, the alphabet by CHKCHR. -/
theorem successfulDecodeLengthAndAlphabet : Obligations.SuccessfulDecodeLengthAndAlphabet := by
  intro text bytes h
  obtain ⟨h4, hpads, hchr, rfl⟩ := decodeText_eq_ok.1 h
  exact ⟨decodeGroups_length builtRev (padsAre_trailingPads hpads) h4, firstBadChar_builtRev.1 hchr⟩

/-! ## Two texts that differ in one symbol -/

theorem firstBadPad_congr {first second : List Byte} (hlen : first.length = second.length)
    (hpad : ∀ i : Nat, first[i]? = some 0x3D ↔ second[i]? = some 0x3D) :
    firstBadPad first = firstBadPad second := by
  have hplaces : MisplacedPad first = MisplacedPad second := by
    funext i
    simp only [MisplacedPad, hlen, hpad]
  exact Option.ext fun i => by rw [firstBadPad_some, firstBadPad_some, hplaces]

theorem firstBadChar_congr {rev : Rev} {first second : List Byte}
    (hbad : ∀ i, UnresolvedChar rev first i ↔ UnresolvedChar rev second i) :
    firstBadChar rev first = firstBadChar rev second := by
  have hplaces : UnresolvedChar rev first = UnresolvedChar rev second := funext fun i => propext (hbad i)
  exact Option.ext fun i => by rw [firstBadChar_some, firstBadChar_some, hplaces]

/-- Two texts that differ in one place agree at every place on a test on which the two characters agree. -/
theorem getElem?_replace_iff {p : Byte → Prop} {c d : Byte} (hcd : p c ↔ p d) (front back : List Byte)
    (i : Nat) :
    (∃ e, (front ++ c :: back)[i]? = some e ∧ p e) ↔ ∃ e, (front ++ d :: back)[i]? = some e ∧ p e := by
  simp only [List.getElem?_append, List.getElem?_cons]
  split_ifs <;> simp [hcd]

theorem ne_padCode_of_indexOf {c : Byte} {k : Sextet} (h : indexOf builtRev c = some k) : c ≠ 0x3D := by
  obtain ⟨-, -, hpad, -⟩ := lookupsAreInverse
  rintro rfl
  rw [hpad] at h
  cases h

/-- In a group at the end, one symbol in place of another changes at most the group's bytes: CHKPAD and
CHKCHR do not see which symbol it is (R102, R103). -/
theorem decodeText_replace_symbol {c d : Byte} {k l : Sextet} (hk : indexOf builtRev c = some k)
    (hl : indexOf builtRev d = some l) (front pre post : List Byte)
    (hgroup : (pre ++ c :: post).length % 4 = 0)
    (hbytes : decodeGroups builtRev (pre ++ c :: post) = decodeGroups builtRev (pre ++ d :: post)) :
    decodeText builtRev (front ++ (pre ++ c :: post)) =
      decodeText builtRev (front ++ (pre ++ d :: post)) := by
  have hgroups : (front ++ (pre ++ c :: post)).length % 4 = 0 →
      decodeGroups builtRev (front ++ (pre ++ c :: post)) =
        decodeGroups builtRev (front ++ (pre ++ d :: post)) := fun h4 => by
    have hfront : front.length % 4 = 0 := by
      rw [List.length_append] at h4
      omega
    rw [decodeGroups_append _ _ _ hfront, decodeGroups_append _ _ _ hfront, hbytes]
  have hlen : (front ++ (pre ++ c :: post)).length = (front ++ (pre ++ d :: post)).length := by simp
  simp only [← List.append_assoc] at hgroups hlen ⊢
  have hpads : firstBadPad (front ++ pre ++ c :: post) = firstBadPad (front ++ pre ++ d :: post) :=
    firstBadPad_congr hlen fun i => by
      simpa using getElem?_replace_iff (p := (· = 0x3D))
        (iff_of_false (ne_padCode_of_indexOf hk) (ne_padCode_of_indexOf hl)) (front ++ pre) post i
  have hchars : firstBadChar builtRev (front ++ pre ++ c :: post) =
      firstBadChar builtRev (front ++ pre ++ d :: post) :=
    firstBadChar_congr (getElem?_replace_iff (p := fun e => e ≠ 0x3D ∧ indexOf builtRev e = none)
      (by simp [hk, hl]) (front ++ pre) post)
  by_cases h4 : (front ++ pre ++ c :: post).length % 4 = 0
  · rw [decodeText, decodeText, ← hlen, hpads, hchars, hgroups h4]
  · rw [decodeText_badLength h4, decodeText_badLength (hlen ▸ h4)]

/-! ## The discarded bits -/

theorem sextetOf_of_indexOf {rev : Rev} {c : Byte} {k : Sextet} (h : indexOf rev c = some k) :
    sextetOf rev c = k := by
  unfold indexOf at h
  split at h <;> cases h
  rfl

/-- A slice above the low `lo` bits does not depend on those. -/
theorem extractLsb'_eq_of_div {n lo : Nat} {x y : BitVec n} (h : x.toNat / 2 ^ lo = y.toNat / 2 ^ lo)
    (len : Nat) : x.extractLsb' lo len = y.extractLsb' lo len := by
  apply BitVec.eq_of_toNat_eq
  rw [toNat_slice, toNat_slice, h]

/-- DEC3 drops the low 2 bits of `V2` (R105, R109). -/
theorem dec3Bytes_discard (rev : Rev) (c0 c1 : Byte) {c d : Byte}
    (h : (sextetOf rev c).toNat / 4 = (sextetOf rev d).toNat / 4) :
    dec3Bytes rev c0 c1 c = dec3Bytes rev c0 c1 d := by
  simp only [dec3Bytes, dec3Word, byte0_groupOfSextets, byte1_groupOfSextets,
    extractLsb'_eq_of_div (lo := 2) h]

/-- DEC2 drops the low 4 bits of `V1` (R106, R109). -/
theorem dec2Bytes_discard (rev : Rev) (c0 : Byte) {c d : Byte}
    (h : (sextetOf rev c).toNat / 16 = (sextetOf rev d).toNat / 16) :
    dec2Bytes rev c0 c = dec2Bytes rev c0 d := by
  simp only [dec2Bytes, dec2Word, byte0_groupOfSextets, extractLsb'_eq_of_div (lo := 4) h]

theorem decodeGroups_onePad (rev : Rev) (c0 c1 : Byte) {c2 : Byte} (h : c2 ≠ padCode) :
    decodeGroups rev [c0, c1, c2, padCode] = dec3Bytes rev c0 c1 c2 := by
  simp [decodeGroups, decodeGroupBytes, h]

theorem decodeGroups_twoPads (rev : Rev) (c0 c1 : Byte) :
    decodeGroups rev [c0, c1, padCode, padCode] = dec2Bytes rev c0 c1 := by
  simp [decodeGroups, decodeGroupBytes]

/-- Settles O33: both texts pass or fail the same checks, and the last group's bytes do not depend on the
bits dropped. -/
theorem discardedBitsDoNotMatter : Obligations.DiscardedBitsDoNotMatter := by
  intro front c0 c1 c d k l hk hl
  have hc : c ≠ padCode := ne_padCode_of_indexOf hk
  have hd : d ≠ padCode := ne_padCode_of_indexOf hl
  have hreplace := decodeText_replace_symbol hk hl front
  rw [← sextetOf_of_indexOf hk, ← sextetOf_of_indexOf hl]
  refine ⟨fun h => hreplace [c0, c1] [padCode] (by simp) ?_,
    fun h => hreplace [c0] [padCode, padCode] (by simp) ?_⟩
  · exact (decodeGroups_onePad builtRev c0 c1 hc).trans
      ((dec3Bytes_discard builtRev c0 c1 h).trans (decodeGroups_onePad builtRev c0 c1 hd).symm)
  · exact (decodeGroups_twoPads builtRev c0 c).trans
      ((dec2Bytes_discard builtRev c0 h).trans (decodeGroups_twoPads builtRev c0 d).symm)

end Sys2Proof.Machine
end

section
/-! PROOFS. The steps of the decoder (42_decoder.md R101 to R106): what each check and each group step
leaves, and when the sequencer runs it. -/

namespace Sys2Proof.Machine

/-! ## The checks -/

/-- A quiet step of a `BUSY` block runs the instruction of the packet its phase selects (R60, R132). -/
theorem quiet_step_runs {s : State} {p : Packet} {i : Instr} (hq : s.hostQuiet = true)
    (hb : s.st = .busy) (hselect : s.selectStep = .run p) (hp : p ≠ .reset) (hd : decode p = .ok i) :
    step s = exec i s.pop := by
  rw [quiet_step hq hb, hselect]
  exact runPacket_of_decode hp hd s.pop

theorem step_chkLen {s : State} (hq : s.hostQuiet = true) (hb : s.st = .busy)
    (hp : s.phase = .pChkLen) : step s = execChkLen s.pop :=
  quiet_step_runs (p := .step .chkLen) (i := .chkLen) hq hb (by rw [State.selectStep, hp]) nofun rfl

theorem step_chkPad {s : State} (hq : s.hostQuiet = true) (hb : s.st = .busy)
    (hp : s.phase = .pChkPad) : step s = execChkPad s.pop :=
  quiet_step_runs (p := .step .chkPad) (i := .chkPad) hq hb (by rw [State.selectStep, hp]) nofun rfl

theorem step_chkChr {s : State} (hq : s.hostQuiet = true) (hb : s.st = .busy)
    (hp : s.phase = .pChkChr) : step s = execChkChr s.pop :=
  quiet_step_runs (p := .step .chkChr) (i := .chkChr) hq hb (by rw [State.selectStep, hp]) nofun rfl

theorem execChkLen_raises {s : State} (h : s.inLen % 4 ≠ 0) :
    execChkLen s = .next (s.raise .invalidLength 0) := if_pos h

theorem execChkLen_passes {s : State} (h : s.inLen % 4 = 0) :
    execChkLen s = .next (s.setPhase .pChkPad) := if_neg (not_not.2 h)

section
variable {s : State} {text : List Byte} {i : Nat}

theorem State.HasInput.chkPad_raises (hi : s.HasInput text) (h : firstBadPad text = some i) :
    execChkPad s = .next (s.raise .invalidPadding i) := by
  simp [execChkPad, hi.readText, h]

theorem State.HasInput.chkPad_passes (hi : s.HasInput text) (h : firstBadPad text = none) :
    execChkPad s = .next (s.passPads (trailingPads text)) := by
  simp [execChkPad, hi.readText, h]

theorem State.HasInput.chkChr_raises (hi : s.HasInput text) (h : firstBadChar s.rev text = some i) :
    execChkChr s = .next (s.raise .invalidCharacter i) := by
  simp [execChkChr, hi.readText, h]

theorem State.HasInput.chkChr_passes (hi : s.HasInput text) (h : firstBadChar s.rev text = none) :
    execChkChr s = .next s.enterGroups := by
  simp [execChkChr, hi.readText, h]

end

/-- Settles O18: the two branches of CHKLEN. -/
theorem chkLenTestsTheLength : Obligations.ChkLenTestsTheLength :=
  fun _ => ⟨execChkLen_raises, execChkLen_passes, step_chkLen⟩

/-- Settles O19: the scan finds the least misplaced pad; without one the pads are the last `NPAD`
characters. -/
theorem chkPadTestsThePads : Obligations.ChkPadTestsThePads := by
  refine fun text s hi => ⟨fun i hleast => ?_, fun hnone => ?_, step_chkPad⟩
  · exact hi.chkPad_raises (firstBadPad_some.2 hleast)
  · obtain ⟨htwo, hpads⟩ := trailing_spec hnone
    exact ⟨trailingPads text, hi.chkPad_passes (firstBadPad_none.2 hnone), htwo,
      trailingPads_le_length text, hpads⟩

/-- Settles O20: the scan finds the least character without an index that is no pad. -/
theorem chkChrTestsTheCharacters : Obligations.ChkChrTestsTheCharacters := by
  refine fun text s hi => ⟨fun i hleast => ?_, fun hnone => ?_, step_chkChr⟩
  · exact hi.chkChr_raises (firstBadChar_some.2 hleast)
  · exact hi.chkChr_passes (firstBadChar_none.2 hnone)

/-! ## The group steps -/

/-- In `P_DEC` before the end the sequencer selects the four characters at `IPTR` (R60). -/
theorem selectStep_decode {s : State} {c0 c1 c2 c3 : Byte} (hp : s.phase = .pDec)
    (hlt : s.iptr < s.inLen) (hf : fits s.cfg.capIn (s.iptr + 4) = true)
    (hr : Memory.readSeq s.inBuf s.iptr 4 = some [c0, c1, c2, c3]) :
    s.selectStep = .run (.c32 (wordOfChars c0 c1 c2 c3)) := by
  rw [State.selectStep, hp]
  exact (selectDecode_fetch hlt).trans (fetchRun_eq _ hf hr)

/-- A quiet step in `P_DEC` before the end runs the row whose shape those characters have (R104 to R106). -/
theorem step_decode_row {s : State} {c0 c1 c2 c3 : Byte} (hq : s.hostQuiet = true) (hb : s.st = .busy)
    (hp : s.phase = .pDec) (hlt : s.iptr < s.inLen) (hf : fits s.cfg.capIn (s.iptr + 4) = true)
    (hr : Memory.readSeq s.inBuf s.iptr 4 = some [c0, c1, c2, c3]) :
    step s = exec (decodeChars (wordOfChars c0 c1 c2 c3)) s.pop :=
  quiet_step_runs hq hb (selectStep_decode hp hlt hf hr) nofun rfl

theorem exec_dec4 (c0 c1 c2 c3 : Byte) {s : State} (h : fits s.cfg.capOut (s.optr + 3) = true) :
    exec (.dec4 c0 c1 c2 c3) s =
      .next ((s.loadGroup (dec4Word s.rev c0 c1 c2 c3) (sextetOf s.rev c0) (sextetOf s.rev c1)
        (sextetOf s.rev c2) (sextetOf s.rev c3)).emit 4 (dec4Bytes s.rev c0 c1 c2 c3)) :=
  groupStep_next h

theorem exec_dec3 (c0 c1 c2 : Byte) {s : State} (h : fits s.cfg.capOut (s.optr + 2) = true) :
    exec (.dec3 c0 c1 c2) s =
      .next ((s.loadGroup (dec3Word s.rev c0 c1 c2) (sextetOf s.rev c0) (sextetOf s.rev c1)
        (sextetOf s.rev c2) 0).emit 4 (dec3Bytes s.rev c0 c1 c2)) :=
  groupStep_next h

theorem exec_dec2 (c0 c1 : Byte) {s : State} (h : fits s.cfg.capOut (s.optr + 1) = true) :
    exec (.dec2 c0 c1) s =
      .next ((s.loadGroup (dec2Word s.rev c0 c1) (sextetOf s.rev c0) (sextetOf s.rev c1) 0 0).emit 4
        (dec2Bytes s.rev c0 c1)) :=
  groupStep_next h

/-- Settles O21: the step is DEC4, since the group does not end in a pad. -/
theorem dec4DecodesAFullGroup : Obligations.Dec4DecodesAFullGroup := by
  intro c0 c1 c2 c3 s hout
  refine ⟨exec_dec4 c0 c1 c2 c3 hout, fun hq hb hp hlt hf hr h3 => ?_⟩
  rw [step_decode_row hq hb hp hlt hf hr, decodeChars_dec4 h3, ← pop_rev s]
  exact exec_dec4 c0 c1 c2 c3 (by simpa using hout)

/-- Settles O22: the step is DEC3, since only the last character is a pad. -/
theorem dec3DecodesAGroupWithOnePad : Obligations.Dec3DecodesAGroupWithOnePad := by
  intro c0 c1 c2 s hout
  refine ⟨exec_dec3 c0 c1 c2 hout, fun hq hb hp hlt hf hr h2 => ?_⟩
  have hrow : decodeChars (wordOfChars c0 c1 c2 0x3D) = .dec3 c0 c1 c2 := decodeChars_dec3 h2
  rw [step_decode_row hq hb hp hlt hf hr, hrow, ← pop_rev s]
  exact exec_dec3 c0 c1 c2 (by simpa using hout)

/-- Settles O23: the step is DEC2, since the last two characters are pads. -/
theorem dec2DecodesAGroupWithTwoPads : Obligations.Dec2DecodesAGroupWithTwoPads := by
  intro c0 c1 s hout
  refine ⟨exec_dec2 c0 c1 hout, fun hq hb hp hlt hf hr => ?_⟩
  have hrow : decodeChars (wordOfChars c0 c1 0x3D 0x3D) = .dec2 c0 c1 := decodeChars_dec2 c0 c1
  rw [step_decode_row hq hb hp hlt hf hr, hrow, ← pop_rev s]
  exact exec_dec2 c0 c1 (by simpa using hout)

end Sys2Proof.Machine
end

section
/-! PROOFS. The group steps of a text that has passed the checks: what they look up, and which of them the
shape selects (42_decoder.md section 3, R108). -/

namespace Sys2Proof.Machine

/-- Which row a `C32` word is, by its last two characters (R104 to R106). -/
theorem decodeChars_shape (w : CharWord) :
    ((∃ c0 c1 c2 c3, decodeChars w = .dec4 c0 c1 c2 c3) ↔ char3 w ≠ padCode) ∧
    ((∃ c0 c1 c2, decodeChars w = .dec3 c0 c1 c2) ↔ char3 w = padCode ∧ char2 w ≠ padCode) ∧
    ((∃ c0 c1, decodeChars w = .dec2 c0 c1) ↔ char3 w = padCode ∧ char2 w = padCode) := by
  by_cases h3 : char3 w = padCode
  · by_cases h2 : char2 w = padCode <;> simp [decodeChars, h3, h2]
  · simp [decodeChars, h3]

/-- The row looks up the characters before the pads. -/
theorem onSymbols_decodeChars {c0 c1 c2 c3 : Byte} (h0 : isSymbol c0 = true) (h1 : isSymbol c1 = true)
    (h2 : c2 ≠ padCode → isSymbol c2 = true) (h3 : c3 ≠ padCode → isSymbol c3 = true)
    (hpads : c2 = padCode → c3 = padCode) :
    (decodeChars (wordOfChars c0 c1 c2 c3)).onSymbols = true := by
  by_cases hc3 : c3 = padCode
  · subst hc3
    by_cases hc2 : c2 = padCode
    · subst hc2
      simp [decodeChars_dec2, Instr.onSymbols, h0, h1]
    · simp [decodeChars_dec3 hc2, Instr.onSymbols, h0, h1, h2 hc2]
  · simp [decodeChars_dec4 hc3, Instr.onSymbols, h0, h1, h2 (mt hpads hc3), h3 hc3]

theorem isSymbol_of_checked {text : List Byte} {c : Byte} (h : firstBadChar builtRev text = none)
    (hc : c ∈ text) (hpad : c ≠ 0x3D) : isSymbol c = true := by
  obtain ⟨j, hj⟩ := List.mem_iff_getElem?.1 hc
  exact Option.isSome_iff_ne_none.2 fun hnone => firstBadChar_none.1 h j ⟨c, hj, hpad, hnone⟩

theorem PadsAre.drop {text : List Byte} {n : Nat} (h : PadsAre text n) (i : Nat) :
    PadsAre (text.drop i) n := by
  obtain ⟨htwo, hpads⟩ := h
  refine ⟨htwo, fun j hj => ?_⟩
  rw [List.length_drop] at hj ⊢
  rw [List.getElem?_drop, hpads (i + j) (by omega)]
  omega

/-- In a text of whole groups a pad stands at most in the last two places of the last group (R102). -/
theorem PadsAre.groupShape {c0 c1 c2 c3 : Byte} {rest : List Byte} {n : Nat}
    (h : PadsAre (c0 :: c1 :: c2 :: c3 :: rest) n) (h4 : rest.length % 4 = 0) :
    c0 ≠ 0x3D ∧ c1 ≠ 0x3D ∧ (c2 = 0x3D ↔ rest = [] ∧ n = 2) ∧ (c3 = 0x3D ↔ rest = [] ∧ 1 ≤ n) := by
  by_cases hr : rest = []
  · subst hr
    simpa using padsAre_one h
  · obtain ⟨h0, h1, h2, h3, -⟩ := padsAre_tail h hr h4
    exact ⟨h0, h1, iff_of_false h2 fun h => hr h.1, iff_of_false h3 fun h => hr h.1⟩

/-- The group at a place of a text that CHKLEN and CHKPAD have passed: it has pads only if it is the last,
and then `NPAD` of them (R108). -/
theorem PadsChecked.group {text : List Byte} (h : PadsChecked text) {i : Nat} (hi : i % 4 = 0)
    (hlt : i < text.length) : ∃ c0 c1 c2 c3, (text.drop i).take 4 = [c0, c1, c2, c3] ∧
      c0 ≠ 0x3D ∧ c1 ≠ 0x3D ∧ (c2 = 0x3D ↔ i + 4 = text.length ∧ trailingPads text = 2) ∧
      (c3 = 0x3D ↔ i + 4 = text.length ∧ 1 ≤ trailingPads text) := by
  obtain ⟨hfour, hpads⟩ := h
  have hcount : (text.drop i).length = text.length - i := List.length_drop
  obtain hnil | ⟨c0, c1, c2, c3, rest, hdrop, hrest⟩ := wholeGroups (text := text.drop i) (by omega)
  · rw [hnil, List.length_nil] at hcount
    omega
  have hshape := (hdrop ▸ (padsAre_trailingPads hpads).drop i).groupShape hrest
  have hlast : rest = [] ↔ i + 4 = text.length := by
    simp only [hdrop, List.length_cons] at hcount
    rw [← List.length_eq_zero_iff]
    omega
  rw [hlast] at hshape
  exact ⟨c0, c1, c2, c3, by rw [hdrop]; rfl, hshape⟩

/-- Settles O53: the characters at `IPTR` are a group of the checked text, so only its pads are no
symbols, and the shape tells how many they are. -/
theorem groupStepsLookUpOnlySymbols : Obligations.GroupStepsLookUpOnlySymbols := by
  intro s p i hinv hq hb hp hlt hact hd
  obtain ⟨text, hi, hphase⟩ := hinv.busyOn hb (by simp [hp])
  simp only [hp] at hphase
  obtain ⟨-, hchecked, hchr, hnpad, -, hiptr, -⟩ := hphase
  have hlen := hi.1
  have hfour := hchecked.1
  obtain ⟨c0, c1, c2, c3, hgroup, h0, h1, h2, h3⟩ := hchecked.group hiptr (hlen ▸ hlt)
  have hread := hi.readSeq (a := s.iptr) (n := 4) (by omega)
  have hselect := selectStep_decode hp hlt (fits_mono hi.2.2 (by omega)) (hread.trans (by rw [hgroup]))
  rw [hostQuiet_activity hq, State.sequencer, if_pos hb, hselect] at hact
  cases hact
  cases hd
  have htwo := (padsAre_trailingPads hchecked.2).1
  have hsymbol : ∀ c ∈ [c0, c1, c2, c3], c ≠ 0x3D → isSymbol c = true := fun c hc =>
    isSymbol_of_checked (hinv.revBuilt ▸ hchr) (List.mem_of_mem_drop (List.mem_of_mem_take (hgroup ▸ hc)))
  have hpad : ∀ k : BitVec 2, s.npad = k ↔ trailingPads text = k.toNat := fun k => by
    rw [← hnpad, BitVec.toNat_inj]
  obtain ⟨hdec4, hdec3, hdec2⟩ := decodeChars_shape (wordOfChars c0 c1 c2 c3)
  simp only [char3_wordOfChars, char2_wordOfChars, padCode, ne_eq, h2, h3] at hdec4 hdec3 hdec2
  refine ⟨onSymbols_decodeChars (hsymbol c0 (by simp) h0) (hsymbol c1 (by simp) h1)
    (hsymbol c2 (by simp)) (hsymbol c3 (by simp)) (fun h => h3.2 ?_), ?_, ?_, ?_⟩
  · obtain ⟨hr, hn⟩ := h2.1 h
    exact ⟨hr, by omega⟩
  · rw [hdec4, show s.npad = 0 ↔ trailingPads text = 0 from hpad 0]
    omega
  · rw [hdec3, show s.npad = 1 ↔ trailingPads text = 1 from hpad 1]
    omega
  · rw [hdec2, show s.npad = 2 ↔ trailingPads text = 2 from hpad 2]
    omega

end Sys2Proof.Machine
end

section
/-! PROOFS. DECODE as a whole and as a run of its steps (42_decoder.md R100, R108, R114,
70_reset_and_hazards.md R179): both leave the same block but for the group's registers. -/

namespace Sys2Proof.Machine

/-! ## The whole operation -/

theorem endDecode_st (s : State) (text : List Byte) : (s.endDecode text).st = .done := by
  unfold State.endDecode
  cases decodeText s.rev text <;> rfl

/-- An error leaves no output (R113). -/
theorem endDecode_noPartial {s : State} {text : List Byte} (h : (s.endDecode text).err ≠ .none) :
    (s.endDecode text).outLen = 0 ∧ (s.endDecode text).outBuf = s.outBuf := by
  unfold State.endDecode at h ⊢
  cases hd : decodeText s.rev text with
  | ok bytes =>
    rw [hd] at h
    exact absurd rfl h
  | error f => exact ⟨rfl, rfl⟩

/-- Settles O40: DECODE leaves `decode` of its text. -/
theorem decodeCompletesOnEveryText : Obligations.DecodeCompletesOnEveryText := by
  refine ⟨fun text s hb hi hf => ?_, fun s hb => exec_busy rfl hb⟩
  exact ⟨_, execDecode_eq hb hi hf, endDecode_st s text, result_endDecode s text, endDecode_noPartial⟩

/-! ## Runs that are `BUSY` up to their last step -/

/-- From `s`, `n` steps lead to `t`, and the block is `BUSY` before each of them. -/
structure BusyRun (n : Nat) (s t : State) : Prop where
  run : runSteps n s = .next t
  busy : ∀ k, k < n → ∃ u, runSteps k s = .next u ∧ u.st = .busy

theorem BusyRun.zero (s : State) : BusyRun 0 s s := ⟨rfl, fun _ hk => absurd hk (Nat.not_lt_zero _)⟩

theorem BusyRun.step {n : Nat} {s t u : State} (h : BusyRun n s t) (hb : t.st = .busy)
    (hs : Machine.step t = .next u) : BusyRun (n + 1) s u where
  run := (runSteps_then_step h.run).trans hs
  busy k hk := by
    rcases Nat.lt_succ_iff_lt_or_eq.1 hk with hlt | rfl
    · exact h.busy k hlt
    · exact ⟨t, h.run, hb⟩

/-! ## The checks of a run of DECODE -/

/-- The block after START and CHKLEN. -/
def State.afterChkLen (s : State) : State := (s.beginOperation 1).setPhase .pChkPad

/-- The block after CHKPAD. -/
def State.afterChkPad (s : State) (text : List Byte) : State := s.afterChkLen.passPads (trailingPads text)

/-- The block after all three checks. -/
def State.afterChecks (s : State) (text : List Byte) : State := (s.afterChkPad text).enterGroups

section
variable {s : State} (hpend : s.pending = []) (hb : s.st = .busy)
include hpend hb

theorem silent_step_chkLen (hp : s.phase = .pChkLen) : step s = execChkLen s := by
  rw [step_chkLen (hostQuiet_of_pending_nil hpend) hb hp, pop_of_pending_nil hpend]

theorem silent_step_chkPad (hp : s.phase = .pChkPad) : step s = execChkPad s := by
  rw [step_chkPad (hostQuiet_of_pending_nil hpend) hb hp, pop_of_pending_nil hpend]

theorem silent_step_chkChr (hp : s.phase = .pChkChr) : step s = execChkChr s := by
  rw [step_chkChr (hostQuiet_of_pending_nil hpend) hb hp, pop_of_pending_nil hpend]

end

section
variable {s : State} {text : List Byte}

theorem State.HasInput.afterChkLen (hi : s.HasInput text) : s.afterChkLen.HasInput text :=
  hi.congr rfl rfl rfl

theorem State.HasInput.afterChkPad (hi : s.HasInput text) : (s.afterChkPad text).HasInput text :=
  hi.congr rfl rfl rfl

variable (hpend : s.pending = [])
include hpend

theorem step_begun : step (s.beginOperation 1) = execChkLen (s.beginOperation 1) :=
  silent_step_chkLen hpend rfl rfl

theorem step_afterChkLen : step s.afterChkLen = execChkPad s.afterChkLen :=
  silent_step_chkPad hpend rfl rfl

theorem step_afterChkPad : step (s.afterChkPad text) = execChkChr (s.afterChkPad text) :=
  silent_step_chkChr hpend rfl rfl

variable (hi : s.HasInput text)
include hi

theorem busyRun_chkLen (h : text.length % 4 = 0) : BusyRun 1 (s.beginOperation 1) s.afterChkLen :=
  (BusyRun.zero _).step rfl ((step_begun hpend).trans (execChkLen_passes (hi.1 ▸ h)))

theorem busyRun_chkPad (h : PadsChecked text) : BusyRun 2 (s.beginOperation 1) (s.afterChkPad text) :=
  (busyRun_chkLen hpend hi h.1).step rfl
    ((step_afterChkLen hpend).trans (hi.afterChkLen.chkPad_passes h.2))

theorem busyRun_chkChr (h : PadsChecked text) (hchr : firstBadChar s.rev text = none) :
    BusyRun 3 (s.beginOperation 1) (s.afterChecks text) :=
  (busyRun_chkPad hpend hi h).step rfl
    ((step_afterChkPad hpend).trans (hi.afterChkPad.chkChr_passes hchr))

/-- A text that does not decode: the run ends in the check that fails, as R179 counts. -/
theorem busyRun_decode_error {f : DecodeFailure} (h : decodeText s.rev text = .error f) :
    BusyRun (decodeSteps s.rev text) (s.beginOperation 1) (s.endDecode text) := by
  rw [decodeSteps, State.endDecode, h]
  by_cases h4 : text.length % 4 = 0
  case neg =>
    rw [decodeText_badLength h4] at h
    cases h
    exact (BusyRun.zero _).step rfl ((step_begun hpend).trans (execChkLen_raises (hi.1 ▸ h4)))
  rw [decodeText, if_neg (not_not.2 h4)] at h
  cases hpads : firstBadPad text with
  | some i =>
    rw [hpads] at h
    cases h
    exact (busyRun_chkLen hpend hi h4).step rfl
      ((step_afterChkLen hpend).trans (hi.afterChkLen.chkPad_raises hpads))
  | none =>
    cases hchr : firstBadChar s.rev text with
    | some i =>
      rw [hpads, hchr] at h
      cases h
      exact (busyRun_chkPad hpend hi ⟨h4, hpads⟩).step rfl
        ((step_afterChkPad hpend).trans (hi.afterChkPad.chkChr_raises hchr))
    | none =>
      rw [hpads, hchr] at h
      cases h

end

/-! ## The groups of a run of DECODE -/

/-- The block after the checks and the groups of the characters `taken`, the last of them in the group's
registers. -/
def State.decodeRun (s : State) (text taken : List Byte) (w : GroupWord) (v0 v1 v2 v3 : Sextet) : State :=
  ((s.afterChecks text).loadGroup w v0 v1 v2 v3).emit taken.length (decodeGroups s.rev taken)

section
variable (s : State) (text taken : List Byte) (w : GroupWord) (v0 v1 v2 v3 : Sextet)

@[simp] theorem decodeRun_rev : (s.decodeRun text taken w v0 v1 v2 v3).rev = s.rev := rfl

@[simp] theorem decodeRun_iptr : (s.decodeRun text taken w v0 v1 v2 v3).iptr = taken.length :=
  Nat.zero_add _

@[simp] theorem decodeRun_optr :
    (s.decodeRun text taken w v0 v1 v2 v3).optr = (decodeGroups s.rev taken).length := Nat.zero_add _

/-- DEC_FIN behind the last group leaves what the whole operation leaves, but for the group's
registers. -/
theorem finish_decodeRun_withoutGroup {s : State} {text : List Byte} (hl : s.inLen = text.length) :
    (s.decodeRun text text w v0 v1 v2 v3).finish.withoutGroup =
      ((s.beginOperation 1).succeedWith (decodeGroups s.rev text) .pDec
        (trailingPads text)).withoutGroup := by
  simp [State.finish, State.decodeRun, State.afterChecks, State.emit, State.loadGroup,
    State.withoutGroup, State.succeedWith, State.beginOperation, State.afterChkPad, State.afterChkLen,
    State.setPhase, State.passPads, State.enterGroups, hl]

end

section
variable {s : State} {text : List Byte} (hpend : s.pending = []) (hi : s.HasInput text)
  (hf : fits s.cfg.capOut (decodeGroups s.rev text).length = true)
include hpend hi hf

/-- The next group of a run of DECODE (R108). -/
theorem step_decodeRun {i : Nat} (h4 : i % 4 = 0) (hle : i + 4 ≤ text.length) (w : GroupWord)
    (v0 v1 v2 v3 : Sextet) :
    ∃ w' u0 u1 u2 u3, step (s.decodeRun text (text.take i) w v0 v1 v2 v3) =
      .next (s.decodeRun text (text.take (i + 4)) w' u0 u1 u2 u3) := by
  have hpend' : (s.decodeRun text (text.take i) w v0 v1 v2 v3).pending = [] := hpend
  have hiptr : (s.decodeRun text (text.take i) w v0 v1 v2 v3).iptr = i := by
    rw [decodeRun_iptr, List.length_take_of_le (by omega)]
  have hroom : fits s.cfg.capOut ((s.decodeRun text (text.take i) w v0 v1 v2 v3).optr +
      (decodeGroups s.rev ((text.drop i).take 4)).length) = true := by
    rw [decodeRun_optr]
    exact fits_mono hf (decodeGroups_take_room s.rev h4 hle)
  obtain ⟨w', u0, u1, u2, u3, hstep⟩ :=
    decode_group_step (hostQuiet_of_pending_nil hpend') rfl rfl (hi.congr rfl rfl rfl)
      (by rwa [hiptr]) (by rwa [hiptr])
  refine ⟨w', u0, u1, u2, u3, ?_⟩
  rw [hstep, hiptr, decodeRun_rev, pop_of_pending_nil hpend', State.decodeRun, emit_loadGroup_emit,
    ← decodeGroups_take_add s.rev h4 (by omega), State.decodeRun, List.length_take_of_le (by omega),
    List.length_take_of_le (by omega)]

theorem busyRun_groups (hchecked : PadsChecked text) (hchr : firstBadChar s.rev text = none) {k : Nat}
    (hk : k ≤ text.length / 4) :
    ∃ w v0 v1 v2 v3, BusyRun (k + 3) (s.beginOperation 1)
      (s.decodeRun text (text.take (4 * k)) w v0 v1 v2 v3) := by
  induction k with
  | zero => exact ⟨s.acc, s.v0, s.v1, s.v2, s.v3, busyRun_chkChr hpend hi hchecked hchr⟩
  | succ k ih =>
    obtain ⟨w, v0, v1, v2, v3, hrun⟩ := ih (by omega)
    obtain ⟨w', u0, u1, u2, u3, hstep⟩ :=
      step_decodeRun hpend hi hf (i := 4 * k) (by omega) (by omega) w v0 v1 v2 v3
    exact ⟨w', u0, u1, u2, u3, hrun.step rfl hstep⟩

/-- A text that decodes: the checks, the groups, then DEC_FIN (R108). -/
theorem busyRun_decode_ok (hchecked : PadsChecked text) (hchr : firstBadChar s.rev text = none) :
    ∃ t, BusyRun (text.length / 4 + 4) (s.beginOperation 1) t ∧ t.st = .done ∧
      t.withoutGroup = ((s.beginOperation 1).succeedWith (decodeGroups s.rev text) .pDec
        (trailingPads text)).withoutGroup := by
  obtain ⟨w, v0, v1, v2, v3, hrun⟩ := busyRun_groups hpend hi hf hchecked hchr le_rfl
  have hfour := hchecked.1
  rw [List.take_of_length_le (by omega)] at hrun
  have hend : (s.decodeRun text text w v0 v1 v2 v3).iptr = s.inLen := by rw [decodeRun_iptr, hi.1]
  have hpend' : (s.decodeRun text text w v0 v1 v2 v3).pending = [] := hpend
  have hfinish := step_finish (hostQuiet_of_pending_nil hpend') rfl (.inr rfl) hend
  rw [pop_of_pending_nil hpend'] at hfinish
  exact ⟨_, hrun.step rfl hfinish, rfl, finish_decodeRun_withoutGroup w v0 v1 v2 v3 hi.1⟩

end

/-! ## The run against the whole operation -/

/-- From START on a DECODE is `BUSY` for the steps R179 counts, then `DONE` as the whole operation leaves
it, but for the group's registers (R114). -/
theorem busyRun_decode {s : State} {text : List Byte} (hpend : s.pending = []) (hi : s.HasInput text)
    (hf : fits s.cfg.capOut (resultLength s.rev 1 text) = true) :
    ∃ t, BusyRun (decodeSteps s.rev text) (s.beginOperation 1) t ∧ t.st = .done ∧
      t.withoutGroup = (s.endDecode text).withoutGroup := by
  cases hd : decodeText s.rev text with
  | error f => exact ⟨_, busyRun_decode_error hpend hi hd, endDecode_st s text, rfl⟩
  | ok bytes =>
    obtain ⟨h4, hpads, hchr, rfl⟩ := decodeText_eq_ok.1 hd
    rw [resultLength_decode ⟨h4, hpads⟩ hchr] at hf
    rw [decodeSteps, State.endDecode, hd]
    exact busyRun_decode_ok hpend hi hf ⟨h4, hpads⟩ hchr

/-- START of a DECODE by the host, who then is silent (R130). -/
theorem step_start_decode {s : State} {text : List Byte} (hp : s.pending = [.start])
    (hb : s.st ≠ .busy) (hop : s.op = 1) (hi : s.HasInput text)
    (hf : fits s.cfg.capOut (resultLength s.rev 1 text) = true) :
    step s = .next (State.beginOperation { s with pending := [] } 1) := by
  rw [step_start hp, execStart_eq (s := { s with pending := [] }) hb hi, hop]
  rwa [hop]

/-- Settles O49: START, then the steps that the outcome of `decode` asks for, against the whole
operation. -/
theorem decodeRunAgreesWithTheFunction : Obligations.DecodeRunAgreesWithTheFunction := by
  intro text s hp hb hop hi hf
  have hstart := step_start_decode hp hb hop hi hf
  rw [pop_cons hp nofun]
  obtain ⟨t, hrun, hdone, hsame⟩ := busyRun_decode (s := { s with pending := [] }) rfl hi hf
  refine ⟨fun k hk => ?_, t, _, (runSteps_succ hstart _).trans hrun.run, hdone,
    (result_congr hsame).trans (result_endDecode _ text),
    execDecode_eq (s := { s with pending := [] }) hb hi hf, hsame⟩
  obtain ⟨u, hu, hbusy⟩ := hrun.busy k hk
  exact ⟨u, (runSteps_succ hstart k).trans hu, hbusy⟩

end Sys2Proof.Machine
end

section
/-! PROOFS. START (43_host_commands.md R130, R133), what the next step runs (R60, R132), and that no
operation in progress stops (70_reset_and_hazards.md R179). -/

namespace Sys2Proof.Machine

/-! ## START -/

/-- Settles O37: over such an input START is `beginOperation`. -/
theorem startBeginsAnOperation : Obligations.StartBeginsAnOperation :=
  ⟨fun _ _ hb hi hf => execStart_eq hb hi hf, fun _ hb => exec_busy rfl hb⟩

/-! ## The instruction of the next step -/

/-- Settles O42: only the reset packet adds to the instruction it decodes to. -/
theorem stepRunsTheDecodedInstruction : Obligations.StepRunsTheDecodedInstruction := by
  intro s p i hact hd
  rw [step, hact]
  refine ⟨fun hp => runPacket_of_decode hp hd s.pop, ?_⟩
  rintro rfl
  rfl

/-- WAIT DONE is taken off the list once the block is `DONE` (R61). -/
theorem pop_waitDone {s : State} {rest : List Event} (hp : s.pending = .waitDone :: rest)
    (hd : s.st = .done) : s.pop = { s with pending := rest } := by
  simp [State.pop, hp, hd]

/-- Until then it stays at the head of the list. -/
theorem pop_waitDone_waits {s : State} {rest : List Event} (hp : s.pending = .waitDone :: rest)
    (hd : s.st ≠ .done) : s.pop = s := by
  simp [State.pop, hp, hd]

/-- Settles O44: the activity by the event at the head, and what `pop` does with that event. -/
theorem eventsSelectTheirInstruction : Obligations.EventsSelectTheirInstruction := by
  intro s e rest hp
  refine ⟨?start, ?encode, ?decode, ?reset, ?symbolFor, ?indexFor, ?character, pop_cons hp, ?done, ?waits⟩
  case start | reset =>
    rintro rfl
    exact ⟨by simp [State.activity, hp], rfl⟩
  case encode | decode =>
    rintro rfl hop
    exact ⟨by simp [State.activity, hp, hop], rfl⟩
  case symbolFor | indexFor | character =>
    rintro operand rfl
    simp [State.activity, hp]
  case done =>
    rintro rfl
    exact pop_waitDone hp
  case waits =>
    rintro rfl
    exact pop_waitDone_waits hp

/-! ## The step of a quiet host -/

/-- The next step of a `BUSY` block is the one its phase selects (R132). -/
theorem quiet_activity {s : State} (hq : s.hostQuiet = true) (hb : s.st = .busy) :
    s.activity = s.selectStep := by
  rw [hostQuiet_activity hq, State.sequencer, if_pos hb]

/-- Outside `BUSY` no step is enabled (R132, last row). -/
theorem quiet_step_rests {s : State} (hq : s.hostQuiet = true) (hb : s.st ≠ .busy) :
    step s = .next s.pop := by
  rw [step, hostQuiet_activity hq, State.sequencer, if_neg hb]
  rfl

/-- Settles O46: the step rests, and taking an event off the list changes only the list. -/
theorem sequencerRestsOutsideBusy : Obligations.SequencerRestsOutsideBusy := by
  refine fun s hq hb => ⟨quiet_step_rests hq hb, ?_⟩
  rw [pop_eq]

/-- In `P_ENC` before the end the sequencer selects the bytes left at `IPTR`, at most three (R60). -/
theorem selectStep_encode {s : State} {run : List Byte} (hp : s.phase = .pEnc) (hlt : s.iptr < s.inLen)
    (hf : fits s.cfg.capIn s.inLen = true) (hlen : run.length = min 3 (s.inLen - s.iptr))
    (hr : Memory.readSeq s.inBuf s.iptr run.length = some run) :
    s.selectStep = .run (.g24 run.length (groupOfRun run)) := by
  rw [State.selectStep, hp]
  refine (selectEncode_fetch hlt).trans ?_
  rw [← hlen]
  exact fetchRun_eq _ (fits_mono hf (by omega)) hr

/-- Settles O43: each phase by its row of the selection table. -/
theorem sequencerSelectsByPhase : Obligations.SequencerSelectsByPhase := by
  intro s hq hb
  rw [quiet_activity hq hb]
  refine ⟨?chkLen, ?chkPad, ?chkChr, ?encFin, ?decFin, fun _ => selectStep_encode,
    fun _ _ _ _ => selectStep_decode⟩
  case chkLen | chkPad | chkChr =>
    intro hp
    rw [State.selectStep, hp]
  case encFin =>
    intro hp hend
    rw [State.selectStep, hp]
    exact selectEncode_end hend
  case decFin =>
    intro hp hend
    rw [State.selectStep, hp]
    exact selectDecode_end hend

/-! ## No operation in progress stops -/

/-- CHKLEN reads nothing, so it answers whatever `IN` holds (R36). -/
theorem exists_step_chkLen {s : State} (hq : s.hostQuiet = true) (hb : s.st = .busy)
    (hp : s.phase = .pChkLen) : ∃ t, step s = .next t := by
  rw [step_chkLen hq hb hp]
  by_cases hl : s.pop.inLen % 4 = 0
  · exact ⟨_, execChkLen_passes hl⟩
  · exact ⟨_, execChkLen_raises hl⟩

section
variable {s : State} (h : Inv s) (hq : s.hostQuiet = true) (hb : s.st = .busy)
include h hq hb

theorem Inv.exists_step_chkPad (hp : s.phase = .pChkPad) : ∃ t, step s = .next t := by
  obtain ⟨input, hi, -⟩ := h.pop.busyOn (by simpa using hb) (by simp [hp])
  rw [step_chkPad hq hb hp]
  cases hpads : firstBadPad input with
  | some i => exact ⟨_, hi.chkPad_raises hpads⟩
  | none => exact ⟨_, hi.chkPad_passes hpads⟩

theorem Inv.exists_step_chkChr (hp : s.phase = .pChkChr) : ∃ t, step s = .next t := by
  obtain ⟨input, hi, -⟩ := h.pop.busyOn (by simpa using hb) (by simp [hp])
  rw [step_chkChr hq hb hp]
  cases hchr : firstBadChar s.pop.rev input with
  | some i => exact ⟨_, hi.chkChr_raises hchr⟩
  | none => exact ⟨_, hi.chkChr_passes hchr⟩

/-- In `P_ENC` the result fits, so the output of the next group has room (R6). -/
theorem Inv.exists_step_encode (hp : s.phase = .pEnc) : ∃ t, step s = .next t := by
  obtain ⟨input, hi, hphase⟩ := h.busyOn hb (by simp [hp])
  simp only [hp] at hphase
  obtain ⟨hf, hle, hgroup, hout⟩ := hphase
  rcases Nat.eq_or_lt_of_le hle with heq | hlt
  · exact ⟨_, step_finish hq hb (.inl hp) (heq.trans hi.1.symm)⟩
  · have hroom : fits s.cfg.capOut (s.optr + 4) = true :=
      fits_mono hf (hout.1 ▸ encodeBytes_take_room (hgroup.resolve_right hlt.ne) hlt)
    obtain ⟨w, v0, v1, v2, v3, hstep⟩ := encode_group_step hq hb hp hi hlt hroom
    exact ⟨_, hstep⟩

/-- In `P_DEC` whole groups are left and the result fits, so the next group is there and its output has
room (R6, R101). -/
theorem Inv.exists_step_decode (hp : s.phase = .pDec) : ∃ t, step s = .next t := by
  obtain ⟨text, hi, hphase⟩ := h.busyOn hb (by simp [hp])
  simp only [hp] at hphase
  obtain ⟨hf, hchecked, hchr, -, hle, h4, hout⟩ := hphase
  rcases Nat.eq_or_lt_of_le hle with heq | hlt
  · exact ⟨_, step_finish hq hb (.inr hp) (heq.trans hi.1.symm)⟩
  · have hfour := hchecked.1
    have hgroup : s.iptr + 4 ≤ text.length := by omega
    rw [resultLength_decode hchecked hchr] at hf
    have hroom := fits_mono hf (hout.1 ▸ decodeGroups_take_room s.rev h4 hgroup)
    obtain ⟨w, v0, v1, v2, v3, hstep⟩ := decode_group_step hq hb hp hi hgroup hroom
    exact ⟨_, hstep⟩

end

/-- Settles O52: outside `BUSY` the step rests; while `BUSY` the invariant of each phase gives its step
what it needs. -/
theorem sequencerNeverStops : Obligations.SequencerNeverStops := by
  intro s h hq
  by_cases hb : s.st = .busy
  case neg => exact ⟨_, quiet_step_rests hq hb⟩
  cases hp : s.phase with
  | pEnc => exact h.exists_step_encode hq hb hp
  | pChkLen => exact exists_step_chkLen hq hb hp
  | pChkPad => exact h.exists_step_chkPad hq hb hp
  | pChkChr => exact h.exists_step_chkChr hq hb hp
  | pDec => exact h.exists_step_decode hq hb hp

end Sys2Proof.Machine
end

section
/-! PROOFS. The error of a text is that of the first check it fails (42_decoder.md R100, R149, R151). -/

namespace Sys2Proof.Machine

variable {rev : Rev} {text : List Byte} {i : Nat}

/-- Behind the length check, the misplaced pad that CHKPAD finds is the error. -/
theorem decodeText_badPad (h4 : text.length % 4 = 0) (hpad : firstBadPad text = some i) :
    decodeText rev text = .error { kind := .invalidPadding, pos := i } := by
  rw [decodeText, if_neg (not_not.2 h4), hpad]

/-- Behind the length and padding checks, the unresolved character that CHKCHR finds is the error. -/
theorem decodeText_badChar (hpads : PadsChecked text) (hchr : firstBadChar rev text = some i) :
    decodeText rev text = .error { kind := .invalidCharacter, pos := i } := by
  obtain ⟨h4, hpad⟩ := hpads
  rw [decodeText, if_neg (not_not.2 h4), hpad, hchr]

/-- Settles O36: one clause for each check that fails first, and one for a text that passes all three. -/
theorem errorsByCheckOrder : Obligations.ErrorsByCheckOrder := by
  intro rev text
  refine ⟨decodeText_badLength, fun i h4 hleast => ?_, fun i h4 hpads hleast => ?_,
    fun h4 hpads hchrs => ?_⟩
  · exact decodeText_badPad h4 (firstBadPad_some.2 hleast)
  · exact decodeText_badChar ⟨h4, firstBadPad_none.2 hpads⟩ (firstBadChar_some.2 hleast)
  · exact ⟨decodeGroups rev text,
      decodeText_eq_ok.2 ⟨h4, firstBadPad_none.2 hpads, firstBadChar_none.2 hchrs, rfl⟩⟩

end Sys2Proof.Machine
end

section
/-! PROOFS. Reset: the state it starts from, and the step that carries it out in any state
(70_reset_and_hazards.md R170, R171, R173). -/

namespace Sys2Proof.Machine

/-- Settles O50: a reset of the state after reset only counts one more of `resets`, so the invariant that
reset establishes holds clause by clause. -/
theorem resetMeetsTheInvariant : Obligations.ResetMeetsTheInvariant where
  __ := inv_afterReset State.reset

/-- A reset at the head of the list is BUILD_REV and then the register writes, the event taken off
(R171). -/
theorem step_reset {s : State} {rest : List Event} (hp : s.pending = .reset :: rest) :
    step s = .next (State.resetRegs { s with pending := rest, rev := builtRev }) := by
  have hact : s.activity = .run .reset := by simp [State.activity, hp]
  obtain ⟨-, hreset⟩ := stepRunsTheDecodedInstruction s .reset .buildRev hact rfl
  rw [hreset rfl, pop_cons hp nofun]

/-- Settles O55: BUILD_REV and `resetRegs` between them write every register and both buffers, whatever
the state was. -/
theorem resetActsFromEveryState : Obligations.ResetActsFromEveryState := by
  intro s rest hp
  refine ⟨_, step_reset hp, ?_⟩
  simp

end Sys2Proof.Machine
end

section
/-! PROOFS. The canonical text of what a text decodes to (42_decoder.md R112): group by group, ENCODE gives
the symbols back but for the bits a padded group discards. -/

namespace Sys2Proof.Machine

/-! ## A group word without the bits its bytes leave out -/

section
variable (w : GroupWord)

/-- The first sextet is bits of the first byte. -/
@[simp] theorem sextet0_groupOfBytes_byte0 (b1 b2 : Byte) :
    sextet0 (groupOfBytes (byte0 w) b1 b2) = sextet0 w := by
  apply BitVec.eq_of_toNat_eq
  simp only [toNat_sextet0, toNat_groupOfBytes, toNat_byte0]
  omega

/-- The second sextet is bits of the first two bytes. -/
@[simp] theorem sextet1_groupOfBytes_byte0_byte1 (b2 : Byte) :
    sextet1 (groupOfBytes (byte0 w) (byte1 w) b2) = sextet1 w := by
  apply BitVec.eq_of_toNat_eq
  simp only [toNat_sextet1, toNat_groupOfBytes, toNat_byte0, toNat_byte1]
  omega

/-- Of the third sextet two bytes keep all but the low 2 bits (R105). -/
theorem sextet2_of_twoBytes_iff :
    sextet2 (groupOfBytes (byte0 w) (byte1 w) 0) = sextet2 w ↔ (sextet2 w).toNat % 4 = 0 := by
  rw [← BitVec.toNat_inj]
  simp only [toNat_sextet2, toNat_groupOfBytes, toNat_byte0, toNat_byte1, BitVec.ofNat_eq_ofNat,
    BitVec.toNat_ofNat]
  omega

/-- Of the second sextet one byte keeps all but the low 4 bits (R106). -/
theorem sextet1_of_oneByte_iff :
    sextet1 (groupOfBytes (byte0 w) 0 0) = sextet1 w ↔ (sextet1 w).toNat % 16 = 0 := by
  rw [← BitVec.toNat_inj]
  simp only [toNat_sextet1, toNat_groupOfBytes, toNat_byte0, BitVec.ofNat_eq_ofNat, BitVec.toNat_ofNat]
  omega

end

/-! ## One group -/

section
variable (i j k l : Sextet)

/-- A group that ends in a symbol is DEC4's (R104). -/
theorem decodeGroups_fourth_fwdAt (c0 c1 c2 : Byte) (rest : List Byte) :
    decodeGroups builtRev (c0 :: c1 :: c2 :: fwdAt l :: rest) =
      dec4Bytes builtRev c0 c1 c2 (fwdAt l) ++ decodeGroups builtRev rest := by
  rw [decodeGroups, decodeGroupBytes, if_pos (fwdAt_ne_padCode l)]

/-- ENC3 undoes DEC4 on symbols (R81, R104). -/
theorem encodeBytes_dec4Bytes_append (bytes : List Byte) :
    encodeBytes (dec4Bytes builtRev (fwdAt i) (fwdAt j) (fwdAt k) (fwdAt l) ++ bytes) =
      fwdAt i :: fwdAt j :: fwdAt k :: fwdAt l :: encodeBytes bytes := by
  simp [dec4Bytes, dec4Word, sextetOf_fwdAt, encodeBytes, enc3Chars, groupOfBytes_bytes]

/-- ENC2 undoes DEC3 exactly where the bits DEC3 drops are zero (R82, R105). -/
theorem encodeBytes_dec3Bytes_iff :
    encodeBytes (dec3Bytes builtRev (fwdAt i) (fwdAt j) (fwdAt k)) =
      [fwdAt i, fwdAt j, fwdAt k, padCode] ↔ k.toNat % 4 = 0 := by
  simpa [dec3Bytes, dec3Word, sextetOf_fwdAt, encodeBytes, enc2Chars, fwdAt_injective.eq_iff]
    using sextet2_of_twoBytes_iff (groupOfSextets i j k 0)

/-- ENC1 undoes DEC2 exactly where the bits DEC2 drops are zero (R83, R106). -/
theorem encodeBytes_dec2Bytes_iff :
    encodeBytes (dec2Bytes builtRev (fwdAt i) (fwdAt j)) =
      [fwdAt i, fwdAt j, padCode, padCode] ↔ j.toNat % 16 = 0 := by
  simpa [dec2Bytes, dec2Word, sextetOf_fwdAt, encodeBytes, enc1Chars, fwdAt_injective.eq_iff]
    using sextet1_of_oneByte_iff (groupOfSextets i j 0 0)

end

/-! ## The whole text -/

/-- The bits discarded of the last symbol before `n` pads are zero (R109, R112). -/
def DiscardsZeros (text : List Byte) (n : Nat) : Prop :=
  ∀ c k, text[text.length - n - 1]? = some c → indexOf builtRev c = some k →
    (n = 1 → k.toNat % 4 = 0) ∧ (n = 2 → k.toNat % 16 = 0)

/-- With the last symbol before the pads named, `DiscardsZeros` is about that symbol's index. -/
theorem discardsZeros_iff {text : List Byte} {n : Nat} {k : Sextet}
    (h : text[text.length - n - 1]? = some (fwdAt k)) :
    DiscardsZeros text n ↔ (n = 1 → k.toNat % 4 = 0) ∧ (n = 2 → k.toNat % 16 = 0) := by
  obtain ⟨hindex, -, -, -⟩ := lookupsAreInverse
  have hk : indexOf builtRev (fwdAt k) = some k := hindex k
  constructor
  · exact fun hzeros => hzeros _ k h hk
  · intro hzeros c l hc hl
    obtain rfl : fwdAt k = c := Option.some.inj (h.symm.trans hc)
    obtain rfl : k = l := Option.some.inj (hk.symm.trans hl)
    exact hzeros

/-- A group that is not the last has no part in `DiscardsZeros`. -/
theorem discardsZeros_tail (c0 c1 c2 c3 : Byte) {rest : List Byte} {n : Nat} (hn : n < rest.length) :
    DiscardsZeros (c0 :: c1 :: c2 :: c3 :: rest) n ↔ DiscardsZeros rest n := by
  have hplace : (c0 :: c1 :: c2 :: c3 :: rest).length - n - 1 = rest.length - n - 1 + 4 := by
    simp only [List.length_cons]
    omega
  simp only [DiscardsZeros, hplace, List.getElem?_cons_succ]

/-- R112 for the last group, by its pads: DEC4, DEC3 or DEC2. -/
theorem encodeBytes_decodeGroups_one_iff {c0 c1 c2 c3 : Byte} {n : Nat}
    (h : PadsAre [c0, c1, c2, c3] n)
    (hsymbol : ∀ c ∈ [c0, c1, c2, c3], c ≠ 0x3D → ∃ k, fwdAt k = c) :
    encodeBytes (decodeGroups builtRev [c0, c1, c2, c3]) = [c0, c1, c2, c3] ↔
      DiscardsZeros [c0, c1, c2, c3] n := by
  obtain ⟨hc0, hc1, hc2, hc3⟩ := padsAre_one h
  obtain ⟨htwo, -⟩ := h
  obtain ⟨i, rfl⟩ := hsymbol c0 (by simp) hc0
  obtain ⟨j, rfl⟩ := hsymbol c1 (by simp) hc1
  obtain rfl | rfl | rfl : n = 0 ∨ n = 1 ∨ n = 2 := by omega
  · obtain ⟨k, rfl⟩ := hsymbol c2 (by simp) (mt hc2.1 (by decide))
    obtain ⟨l, rfl⟩ := hsymbol c3 (by simp) (mt hc3.1 (by decide))
    rw [decodeGroups_fourth_fwdAt, encodeBytes_dec4Bytes_append, discardsZeros_iff (k := l) rfl]
    simp [decodeGroups, encodeBytes]
  · obtain ⟨k, rfl⟩ := hsymbol c2 (by simp) (mt hc2.1 (by decide))
    obtain rfl : c3 = padCode := hc3.2 le_rfl
    rw [decodeGroups_onePad _ _ _ (fwdAt_ne_padCode k), encodeBytes_dec3Bytes_iff,
      discardsZeros_iff (k := k) rfl]
    simp
  · obtain rfl : c2 = padCode := hc2.2 rfl
    obtain rfl : c3 = padCode := hc3.2 (by decide)
    rw [decodeGroups_twoPads, encodeBytes_dec2Bytes_iff, discardsZeros_iff (k := j) rfl]
    simp

/-- R112 over the groups of a text that passes the checks. -/
theorem encodeBytes_decodeGroups_iff {text : List Byte} {n : Nat} (h : PadsAre text n)
    (h4 : text.length % 4 = 0) (hsymbol : ∀ c ∈ text, c ≠ 0x3D → ∃ k, fwdAt k = c) :
    encodeBytes (decodeGroups builtRev text) = text ↔ DiscardsZeros text n := by
  induction text using decodeGroups.induct with
  | case1 c0 c1 c2 c3 rest ih =>
    have h4' : rest.length % 4 = 0 := by
      simp only [List.length_cons] at h4
      omega
    by_cases hr : rest = []
    · subst hr
      exact encodeBytes_decodeGroups_one_iff h hsymbol
    obtain ⟨hc0, hc1, hc2, hc3, htail⟩ := padsAre_tail h hr h4'
    have hpos : 0 < rest.length := List.length_pos_iff.2 hr
    have htwo := h.1
    obtain ⟨i, rfl⟩ := hsymbol c0 (by simp) hc0
    obtain ⟨j, rfl⟩ := hsymbol c1 (by simp) hc1
    obtain ⟨k, rfl⟩ := hsymbol c2 (by simp) hc2
    obtain ⟨l, rfl⟩ := hsymbol c3 (by simp) hc3
    rw [discardsZeros_tail _ _ _ _ (by omega),
      ← ih htail h4' fun c hc => hsymbol c (by simp [hc]), decodeGroups_fourth_fwdAt,
      encodeBytes_dec4Bytes_append]
    simp
  | case2 text hshort =>
    rcases wholeGroups h4 with rfl | ⟨c0, c1, c2, c3, rest, rfl, -⟩
    · simp [decodeGroups, encodeBytes, DiscardsZeros]
    · exact absurd rfl (hshort c0 c1 c2 c3 rest)

/-- Settles O35: the checks leave a text of symbols and at most two pads at its end, and on such a text
ENCODE undoes the decoder group by group, but for the last group's discarded bits. -/
theorem encodeOfDecodeIsTheCanonicalText : Obligations.EncodeOfDecodeIsTheCanonicalText := by
  intro text bytes h
  obtain ⟨h4, hpads, hchr, rfl⟩ := decodeText_eq_ok.1 h
  refine encodeBytes_decodeGroups_iff (padsAre_trailingPads hpads) h4 fun c hc hpad => ?_
  obtain ⟨k, rfl⟩ := (firstBadChar_builtRev.1 hchr c hc).resolve_left hpad
  exact ⟨k, fwdAt_eq_symbolClosed k⟩

end Sys2Proof.Machine
end

section
/-! PROOFS. The table accesses and the character codes run by themselves (40_alphabet_table.md R65, R66,
30_encoding.md R50, R51): each answers in `mapped` and leaves the rest of the state. -/

namespace Sys2Proof.Machine

/-- Settles O9: `FWD[i]` by its closed form (R52). -/
theorem symbolForAnswersTheForwardTable : Obligations.SymbolForAnswersTheForwardTable := by
  intro i s
  rw [← fwdAt_eq_symbolClosed]
  rfl

/-- Settles O10: the two branches of `indexOf`. -/
theorem indexForAnswersTheReverseTable : Obligations.IndexForAnswersTheReverseTable :=
  fun c s => ⟨indexOf s.rev c, rfl, fun h => if_pos h, fun h => if_neg (by simp [h])⟩

/-- Settles O11: a symbol row's code is `FWD` at its index and it runs as that index's symbol; over the
built table the lookups are inverse (R68). -/
theorem symbolCodesAnswerTheirIndex : Obligations.SymbolCodesAnswerTheirIndex := by
  intro i k hk s
  obtain ⟨hindex, -, -, -⟩ := lookupsAreInverse
  rw [← fwdAt_eq_symbolClosed]
  exact ⟨encode_of_symbolIndex hk, exec_of_symbolIndex hk s, fun hrev => hrev ▸ hindex k⟩

/-- Settles O12: the pad code is a constant, and running it is one update of `mapped`. -/
theorem padCodeAnswersNoIndex : Obligations.PadCodeAnswersNoIndex :=
  fun _ => ⟨rfl, rfl⟩

end Sys2Proof.Machine
end

section
/-! PROOFS. The status word (10_state.md R17). -/

namespace Sys2Proof.Machine

/-- The status word as a number: `ERR` above the two bits of `ST`, and nothing above `ERR` (R17). -/
theorem toNat_statusWord (s : State) :
    s.statusWord.toNat = (errCode s.err).toNat * 4 + (stCode s.st).toNat := by
  simp only [State.statusWord, toNat_append_add, BitVec.ofNat_eq_ofNat, BitVec.toNat_ofNat]
  omega

theorem statusWord_mod_four (s : State) : s.statusWord.toNat % 4 = (stCode s.st).toNat := by
  rw [toNat_statusWord]
  omega

theorem statusWord_div_four (s : State) : s.statusWord.toNat / 4 = (errCode s.err).toNat := by
  rw [toNat_statusWord]
  omega

/-- Settles O56: the code of `ST` is the word modulo 4, the code of `ERR` the quotient. -/
theorem statusWordLayout : Obligations.StatusWordLayout := by
  intro s
  rw [statusWord_mod_four, statusWord_div_four]
  refine ⟨?_, ?_, ?_, ?_, ?_, ?_, ?_⟩ <;> intro h <;> rw [h] <;> rfl

end Sys2Proof.Machine
end
